-- ==== Sys2Proof/Word.lean ====
section
/-! DEFINITION. The machine's word, byte and operand-field types (R8: XLEN = 32, OPC_W = 5, OPND_W = 9). -/

namespace Sys2Proof

/-- A register value or an instruction word: a 32-bit pattern (R8, R9, R20, R28). -/
abbrev Word := BitVec 32

/-- A byte of a program carried as a byte stream (R53). -/
abbrev Byte := BitVec 8

/-- The opcode field: 5 bits, values 0 to 31 (R8, R70). -/
abbrev Opcode := BitVec 5

/-- An operand field: 9 bits, values 0 to 511, always used zero-extended (R8, R70, R73). -/
abbrev Operand := BitVec 9

/-- A register named by an operand field; the 9 bits name exactly the registers 0 to 511 (R22, R75). -/
abbrev RegIdx := Operand

end Sys2Proof
end

