-- ==== Sys2Proof/Machine/Operands.lean ====
section
/-! DEFINITION. The width and sign functions of R12 and the value each operation computes from its operands
(`42_unary.md` to `46_shift_rotate.md`), over words alone. -/

namespace Sys2Proof.Machine

open Sys2Proof

/-! ### R12 -/

/-- The pattern read as an unsigned integer. -/
def u32 (v : Word) : Nat := v.toNat

/-- The pattern read as a two's complement signed integer (R9). -/
def s32 (v : Word) : Int := v.toInt

/-- The pattern whose unsigned reading is `z mod 2^32`, the non-negative remainder. -/
def wrap32 (z : Int) : Word := BitVec.ofInt 32 z

/-- `v << n`. -/
def shl (v : Word) (n : Nat) : Word := wrap32 (u32 v * 2 ^ n)

/-- `v >>u n`. -/
def shrU (v : Word) (n : Nat) : Word := wrap32 (u32 v / 2 ^ n : Nat)

/-- `v >>s n`, rounding toward minus infinity. -/
def shrS (v : Word) (n : Nat) : Word := wrap32 ((s32 v).fdiv (2 ^ n))

/-! ### Unary operations -/

/-- BitwiseInversion (R130). -/
def inversion (v : Word) : Word := ~~~v

/-- MaxPowerOfTwo (R131): for a positive value, 2 to the largest `k` with `2^k` not above it; else 0. -/
def maxPow2 (v : Word) : Word :=
  if 0 < s32 v then wrap32 (2 ^ (s32 v).toNat.log2) else 0

/-! ### Binary bitwise operations (R136 to R143) -/

def disj (a b : Word) : Word := a ||| b
def conj (a b : Word) : Word := a &&& b
def exclOr (a b : Word) : Word := a ^^^ b
/-- "Implication = (¬a)|b" (R139). -/
def implies (a b : Word) : Word := ~~~a ||| b
/-- "Coimplication = a|(¬b)" (R140). -/
def coimplies (a b : Word) : Word := a ||| ~~~b
/-- "Equivalence = (¬a∧¬b)|(a∧b)" (R141). -/
def equiv (a b : Word) : Word := (~~~a &&& ~~~b) ||| (a &&& b)
/-- "PierceArrow = ¬(a∨b)" (R142). -/
def nor (a b : Word) : Word := ~~~(a ||| b)
/-- "ShefferStroke = ¬(a∧b)" (R143). -/
def nand (a b : Word) : Word := ~~~(a &&& b)

/-! ### Arithmetic (R151 to R155): exact over the integers, then narrowed -/

def sum (a b : Word) : Word := wrap32 (s32 a + s32 b)
def difference (a b : Word) : Word := wrap32 (s32 a - s32 b)
def product (a b : Word) : Word := wrap32 (s32 a * s32 b)
/-- The quotient rounded toward zero (R154); at (-2^31, -1) it wraps to 0x80000000. -/
def quotient (a b : Word) : Word := wrap32 ((s32 a).tdiv (s32 b))
/-- The remainder of the truncating division, `A - B * trunc(A / B)` (R155). -/
def remainder (a b : Word) : Word := wrap32 (s32 a - s32 b * (s32 a).tdiv (s32 b))

/-! ### Byte insert (R52, R162) -/

/-- `old` with byte `i` (bits `8i+7` to `8i`) replaced by the byte value `b`. -/
def insertByte (old : Word) (i : Nat) (b : Word) : Word :=
  (old &&& ~~~(shl 0xFF#32 (8 * i))) ||| shl b (8 * i)

/-! ### Shifts and rotates (R170 to R174) -/

/-- The effective count, `u32(v) mod 32` (R170). -/
def shiftCount (v : Word) : Nat := u32 v % 32

/-- ShiftRight's result under SHR_ARITH (R172). -/
def shiftRightBy (arith : Bool) (v : Word) (n : Nat) : Word := if arith then shrS v n else shrU v n

/-- RotateLeft's result for a count of 0 to 31 (R173). -/
def rotateLeftBy (v : Word) (n : Nat) : Word := if n = 0 then v else shl v n ||| shrU v (32 - n)

/-- RotateRight's result for a count of 0 to 31 (R174). -/
def rotateRightBy (v : Word) (n : Nat) : Word := if n = 0 then v else shrU v n ||| shl v (32 - n)

end Sys2Proof.Machine
end

