-- ==== Sys2Proof/Machine/Flags.lean ====
section
/-! DEFINITION. The machine has no flags (R37). What stands in their place are the conditions the handlers test: the
conditions of R181 that do not depend on the input port. -/

namespace Sys2Proof.Machine

open Sys2Proof

/-- A legal numeric base, BASE_MIN to BASE_MAX (R8, R120). -/
abbrev baseLegal (base : Nat) : Prop := 2 ≤ base ∧ base ≤ 36

/-- Division and Modulo: the divisor is zero (R154, R155). -/
abbrev divisorZero (b : Word) : Prop := s32 b = 0

/-- Division and Modulo: the one quotient that does not fit, -2^31 by -1 (R154, R155). -/
abbrev quotientOverflows (a b : Word) : Prop := s32 a = -2 ^ 31 ∧ s32 b = -1

/-- SetByte: byte index or byte value out of range, both read as signed integers (R162, D16). -/
abbrev byteOutOfRange (idx val : Word) : Prop := s32 idx < 0 ∨ s32 idx > 3 ∨ s32 val < 0 ∨ s32 val > 255

end Sys2Proof.Machine
end

