-- ==== Sys2Proof/Config.lean ====
section
/-! DEFINITION. What the spec leaves to the implementation: the parameters of `00_scope.md` rule R8 with their
defaults, as plain data, and the free values (functions without a body) for what the spec gives no value. -/

namespace Sys2Proof

/-- The 25 operations by name, in the order of R76 (the enumeration wins over the count "20", C1). -/
inductive Mnemonic where
  | printRegisters | printOperand | inputOperand
  | bitwiseInversion | maxPowerOfTwo
  | disjunction | conjunction | xor | implication | coimplication | equivalence | pierceArrow | shefferStroke
  | addition | subtraction | multiplication | division | modulo
  | swap | copy | setByte
  | shiftLeft | shiftRight | rotateLeft | rotateRight
  deriving DecidableEq, Repr

/-- All operations, in the order of R76. -/
def Mnemonic.all : List Mnemonic :=
  [.printRegisters, .printOperand, .inputOperand, .bitwiseInversion, .maxPowerOfTwo] ++
  [.disjunction, .conjunction, .xor, .implication, .coimplication, .equivalence, .pierceArrow, .shefferStroke] ++
  [.addition, .subtraction, .multiplication, .division, .modulo] ++
  [.swap, .copy, .setByte, .shiftLeft, .shiftRight, .rotateLeft, .rotateRight]

/-- OPMAP (R8, R76, D1): the opcode number of each operation, one field each, so that it is plain data. It is
meaningful when injective (`OpMap.wf`, WellFormed.lean). -/
structure OpMap where
  printRegisters : Opcode
  printOperand : Opcode
  inputOperand : Opcode
  bitwiseInversion : Opcode
  maxPowerOfTwo : Opcode
  disjunction : Opcode
  conjunction : Opcode
  xor : Opcode
  implication : Opcode
  coimplication : Opcode
  equivalence : Opcode
  pierceArrow : Opcode
  shefferStroke : Opcode
  addition : Opcode
  subtraction : Opcode
  multiplication : Opcode
  division : Opcode
  modulo : Opcode
  swap : Opcode
  copy : Opcode
  setByte : Opcode
  shiftLeft : Opcode
  shiftRight : Opcode
  rotateLeft : Opcode
  rotateRight : Opcode
  deriving DecidableEq, Repr

/-- The default OPMAP: the numbers 0 to 24 of R76's table (D1, not the original software's numbers). -/
def OpMap.default : OpMap where
  printRegisters := 0
  printOperand := 1
  inputOperand := 2
  bitwiseInversion := 3
  maxPowerOfTwo := 4
  disjunction := 5
  conjunction := 6
  xor := 7
  implication := 8
  coimplication := 9
  equivalence := 10
  pierceArrow := 11
  shefferStroke := 12
  addition := 13
  subtraction := 14
  multiplication := 15
  division := 16
  modulo := 17
  swap := 18
  copy := 19
  setByte := 20
  shiftLeft := 21
  shiftRight := 22
  rotateLeft := 23
  rotateRight := 24

/-- DIV_OVF (R8, D8): what Division and Modulo do on -2^31 by -1. -/
inductive DivOvf where
  | wrap   -- Division gives 0x80000000, Modulo gives 0
  | fault  -- both raise DivisionOverflow
  deriving DecidableEq, Repr

/-- STREAM_ENDIAN (R8, R53, D2): byte order of a word in a byte stream. -/
inductive Endian where
  | little
  | big
  deriving DecidableEq, Repr

/-- The value of a parameter function of R8 (ParseInt, FormatInt, Render): the spec's default for it, or any other
function of the same arguments. -/
inductive TextPolicy where
  | standard
  | other
  deriving DecidableEq, Repr

/-- The parameters an implementation fixes (R8). They are carried in State and no step changes them. -/
structure Config where
  opmap : OpMap
  /-- SHR_ARITH (D6): ShiftRight replicates the sign bit. -/
  shrArith : Bool
  divOvf : DivOvf
  /-- INPUT_BASE_CHECK (D10): InputOperand checks its base before prompting. -/
  inputBaseCheck : Bool
  /-- ParseInt (D11). -/
  parse : TextPolicy
  /-- FormatInt (D9). -/
  format : TextPolicy
  /-- Render (D4). -/
  render : TextPolicy
  /-- PROG_MAX (D15, OPEN): the largest program length in words, or no bound. -/
  progMax : Option Nat
  streamEndian : Endian
  deriving DecidableEq, Repr

/-- R8's defaults. PROG_MAX has none in the spec; no bound is the model's value (log 6). -/
def Config.default : Config where
  opmap := OpMap.default
  shrArith := true
  divOvf := .wrap
  inputBaseCheck := true
  parse := .standard
  format := .standard
  render := .standard
  progMax := none
  streamEndian := .little

/-- A ParseInt that is not R125's default: any function of the text and the base (D11, U13). Free value, log 5. -/
opaque Config.otherParseInt : List Char → Nat → Option Word

/-- What R125's ParseInt makes of a base outside 2 to 36, where it is not defined; reached only with
INPUT_BASE_CHECK = false (R123). Free value, log 5. -/
opaque Config.parseIntIllegalBase : List Char → Nat → Option Word

/-- A FormatInt that is not R124's default: any function of the pattern and the base (D9, N7). Free value, log 5. -/
opaque Config.otherFormatInt : Word → Nat → List Char

/-- What R124's FormatInt makes of a base outside 2 to 36, where it is not defined; no record a run appends has such a
base (R120). Free value, log 5. -/
opaque Config.formatIntIllegalBase : Word → Nat → List Char

/-- The text of a `Header(base)` line (N6). Free value, log 7. -/
opaque Config.headerText : Nat → List Char

/-- The text of a `RegLine` from its index, its base and its formatted value (N6). Free value, log 7. -/
opaque Config.regLineText : RegIdx → Nat → List Char → List Char

/-- The text of an error line from its fault code and info (N6). Free value, log 7. -/
opaque Config.errorText : Nat → Nat → List Char

end Sys2Proof
end

