-- ==== Sys2Proof/Syntax.lean ====
section
/-! DEFINITION. The instructions: one constructor per row of spec/opcode_table.json, with the operands its format
(R75) uses, in the order op1, op2, op3. A field the format does not use is no part of the instruction (R79, D5). -/

namespace Sys2Proof

/-- The 25 operations (R76) with their operands (R75). A register operand is a 9-bit field; a base is the literal
itself, a number (R120), which `Instr.wf` bounds by its field. -/
inductive Instr where
  /-- R121, format B. -/
  | printRegisters (base : Nat)
  /-- R122, format RB. -/
  | printOperand (a : RegIdx) (base : Nat)
  /-- R123, format RB. -/
  | inputOperand (a : RegIdx) (base : Nat)
  /-- R130, format R_R: op1 = src, op3 = dst. -/
  | bitwiseInversion (src dst : RegIdx)
  /-- R131, format R_R: op1 = src, op3 = dst. -/
  | maxPowerOfTwo (src dst : RegIdx)
  /-- R136, format RRR. -/
  | disjunction (a b dst : RegIdx)
  /-- R137, format RRR. -/
  | conjunction (a b dst : RegIdx)
  /-- R138, format RRR. -/
  | xor (a b dst : RegIdx)
  /-- R139, format RRR. -/
  | implication (a b dst : RegIdx)
  /-- R140, format RRR. -/
  | coimplication (a b dst : RegIdx)
  /-- R141, format RRR. -/
  | equivalence (a b dst : RegIdx)
  /-- R142, format RRR. -/
  | pierceArrow (a b dst : RegIdx)
  /-- R143, format RRR. -/
  | shefferStroke (a b dst : RegIdx)
  /-- R151, format RRR. -/
  | addition (a b dst : RegIdx)
  /-- R152, format RRR. -/
  | subtraction (a b dst : RegIdx)
  /-- R153, format RRR. -/
  | multiplication (a b dst : RegIdx)
  /-- R154, format RRR. -/
  | division (a b dst : RegIdx)
  /-- R155, format RRR. -/
  | modulo (a b dst : RegIdx)
  /-- R160, format RR. -/
  | swap (a b : RegIdx)
  /-- R161, format RR: op1 = dst, op2 = src. -/
  | copy (dst src : RegIdx)
  /-- R162, format RRR: op1 = reg, op2 = idxReg, op3 = valReg. -/
  | setByte (reg idxReg valReg : RegIdx)
  /-- R171, format RRR. -/
  | shiftLeft (a shiftReg dst : RegIdx)
  /-- R172, format RRR. -/
  | shiftRight (a shiftReg dst : RegIdx)
  /-- R173, format RRR. -/
  | rotateLeft (a shiftReg dst : RegIdx)
  /-- R174, format RRR. -/
  | rotateRight (a shiftReg dst : RegIdx)
  deriving DecidableEq, Repr

end Sys2Proof
end

