-- ==== Sys2Proof/WellFormed.lean ====
section
/-! DEFINITION. When an instruction fits its word (R70, R71) and when the parameters are ones R8 allows. -/

namespace Sys2Proof

/-- A literal base fits its 9-bit field: 0 to 511 (R70, R75). Whether it is a LEGAL base (2 to 36) is checked at run
time, not here (R95, R120). -/
abbrev baseFits (base : Nat) : Prop := base ≤ 511

/-- The instruction can be put into a word: every register operand is a 9-bit field by its type, so only a literal
base can be out of range (R71). -/
def Instr.wf : Instr → Bool
  | .printRegisters base => decide (baseFits base)
  | .printOperand _ base => decide (baseFits base)
  | .inputOperand _ base => decide (baseFits base)
  | .bitwiseInversion _ _ => true
  | .maxPowerOfTwo _ _ => true
  | .disjunction _ _ _ => true
  | .conjunction _ _ _ => true
  | .xor _ _ _ => true
  | .implication _ _ _ => true
  | .coimplication _ _ _ => true
  | .equivalence _ _ _ => true
  | .pierceArrow _ _ _ => true
  | .shefferStroke _ _ _ => true
  | .addition _ _ _ => true
  | .subtraction _ _ _ => true
  | .multiplication _ _ _ => true
  | .division _ _ _ => true
  | .modulo _ _ _ => true
  | .swap _ _ => true
  | .copy _ _ => true
  | .setByte _ _ _ => true
  | .shiftLeft _ _ _ => true
  | .shiftRight _ _ _ => true
  | .rotateLeft _ _ _ => true
  | .rotateRight _ _ _ => true

/-- The opcode number OPMAP gives an operation (R76). -/
def OpMap.code (o : OpMap) : Mnemonic → Opcode
  | .printRegisters => o.printRegisters
  | .printOperand => o.printOperand
  | .inputOperand => o.inputOperand
  | .bitwiseInversion => o.bitwiseInversion
  | .maxPowerOfTwo => o.maxPowerOfTwo
  | .disjunction => o.disjunction
  | .conjunction => o.conjunction
  | .xor => o.xor
  | .implication => o.implication
  | .coimplication => o.coimplication
  | .equivalence => o.equivalence
  | .pierceArrow => o.pierceArrow
  | .shefferStroke => o.shefferStroke
  | .addition => o.addition
  | .subtraction => o.subtraction
  | .multiplication => o.multiplication
  | .division => o.division
  | .modulo => o.modulo
  | .swap => o.swap
  | .copy => o.copy
  | .setByte => o.setByte
  | .shiftLeft => o.shiftLeft
  | .shiftRight => o.shiftRight
  | .rotateLeft => o.rotateLeft
  | .rotateRight => o.rotateRight

/-- OPMAP is injective: no two operations share an opcode number (R8, R76). -/
def OpMap.wf (o : OpMap) : Bool := decide (Mnemonic.all.map o.code).Nodup

/-- The parameters are ones R8 allows; only OPMAP has a side condition. -/
def Config.wf (c : Config) : Bool := c.opmap.wf

end Sys2Proof
end

