-- ==== Sys2Proof/Decode.lean ====
section
/-! DEFINITION. The instruction codec (R70 to R83): the four fields of a word, selection of the operation by the
opcode field under an OPMAP, the total decoder with its rejections by name, the encoder, the `encode` port with its
range check, and a program carried as bytes (R53). -/

namespace Sys2Proof

/-- The four bit-fields of an instruction word (R70). -/
structure Fields where
  opcode : Opcode
  op1 : Operand
  op2 : Operand
  op3 : Operand
  deriving DecidableEq, Repr

/-- The five operand-role patterns (R75). -/
inductive Format where
  /-- op1 a base; op2, op3 unused. -/
  | b
  /-- op1 a register, op2 a base; op3 unused. -/
  | rb
  /-- op1 the source, op3 the destination; op2 unused. -/
  | rNoneR
  /-- op1 and op2 registers; op3 unused. -/
  | rr
  /-- op1, op2 and op3 registers. -/
  | rrr
  deriving DecidableEq, Repr

/-- The format of each operation (R75, R76). -/
def Mnemonic.format : Mnemonic → Format
  | .printRegisters => .b
  | .printOperand | .inputOperand => .rb
  | .bitwiseInversion | .maxPowerOfTwo => .rNoneR
  | .swap | .copy => .rr
  | .disjunction | .conjunction | .xor | .implication | .coimplication | .equivalence | .pierceArrow | .shefferStroke
  | .addition | .subtraction | .multiplication | .division | .modulo
  | .setByte | .shiftLeft | .shiftRight | .rotateLeft | .rotateRight => .rrr

/-- The `decode` port: total, pure extraction of the four fields, zero-extended by their types (R70, R73). -/
def decodeFields (w : Word) : Fields where
  opcode := w.extractLsb' 0 5
  op1 := w.extractLsb' 5 9
  op2 := w.extractLsb' 14 9
  op3 := w.extractLsb' 23 9

/-- The word of four fields: `opcode + op1 * 2^5 + op2 * 2^14 + op3 * 2^23` (R71). -/
def packFields (f : Fields) : Word :=
  BitVec.ofNat 32 (f.opcode.toNat + f.op1.toNat * 2 ^ 5 + f.op2.toNat * 2 ^ 14 + f.op3.toNat * 2 ^ 23)

/-- The errors the core's own ports return to whoever drives them (R180). -/
inductive ContractViolation where
  /-- `encode` with an input outside its field's range (R72, R195). -/
  | encodingOutOfRange
  /-- `get` or `set` with an index outside 0 to 511 (R22, R23, R196). -/
  | indexOutOfRange
  deriving DecidableEq, Repr

/-- The `encode` port over any four integers (R71, R72, D17). -/
def encodePort (opcode op1 op2 op3 : Int) : Except ContractViolation Word :=
  if (0 ≤ opcode ∧ opcode ≤ 31) ∧ (0 ≤ op1 ∧ op1 ≤ 511) ∧ (0 ≤ op2 ∧ op2 ≤ 511) ∧ (0 ≤ op3 ∧ op3 ≤ 511) then
    .ok (packFields ⟨BitVec.ofInt 5 opcode, BitVec.ofInt 9 op1, BitVec.ofInt 9 op2, BitVec.ofInt 9 op3⟩)
  else .error .encodingOutOfRange

/-- The `decode` port: the four fields as the integers 0 to 31 and 0 to 511 (R73). -/
def decodePort (w : Word) : Int × Int × Int × Int :=
  let f := decodeFields w
  (f.opcode.toNat, f.op1.toNat, f.op2.toNat, f.op3.toNat)

/-- The operation an opcode number selects, if OPMAP maps one to it (R77, R78, R111). -/
def OpMap.find (o : OpMap) (c : Opcode) : Option Mnemonic := Mnemonic.all.find? (fun m => o.code m == c)

/-- The instruction of an operation and a word's operand fields, each field in the role R75 gives it. -/
def instrOfFields (m : Mnemonic) (f : Fields) : Instr :=
  match m with
  | .printRegisters => .printRegisters f.op1.toNat
  | .printOperand => .printOperand f.op1 f.op2.toNat
  | .inputOperand => .inputOperand f.op1 f.op2.toNat
  | .bitwiseInversion => .bitwiseInversion f.op1 f.op3
  | .maxPowerOfTwo => .maxPowerOfTwo f.op1 f.op3
  | .disjunction => .disjunction f.op1 f.op2 f.op3
  | .conjunction => .conjunction f.op1 f.op2 f.op3
  | .xor => .xor f.op1 f.op2 f.op3
  | .implication => .implication f.op1 f.op2 f.op3
  | .coimplication => .coimplication f.op1 f.op2 f.op3
  | .equivalence => .equivalence f.op1 f.op2 f.op3
  | .pierceArrow => .pierceArrow f.op1 f.op2 f.op3
  | .shefferStroke => .shefferStroke f.op1 f.op2 f.op3
  | .addition => .addition f.op1 f.op2 f.op3
  | .subtraction => .subtraction f.op1 f.op2 f.op3
  | .multiplication => .multiplication f.op1 f.op2 f.op3
  | .division => .division f.op1 f.op2 f.op3
  | .modulo => .modulo f.op1 f.op2 f.op3
  | .swap => .swap f.op1 f.op2
  | .copy => .copy f.op1 f.op2
  | .setByte => .setByte f.op1 f.op2 f.op3
  | .shiftLeft => .shiftLeft f.op1 f.op2 f.op3
  | .shiftRight => .shiftRight f.op1 f.op2 f.op3
  | .rotateLeft => .rotateLeft f.op1 f.op2 f.op3
  | .rotateRight => .rotateRight f.op1 f.op2 f.op3

/-- Why bytes or a word give no instruction. -/
inductive DecodeReject where
  /-- OPMAP maps no operation to this opcode (R78); the machine takes the fault UnknownOpcode (R114). -/
  | unknownOpcode (opcode : Opcode)
  /-- Fewer than four bytes: no whole word (R53, R70). -/
  | truncated
  deriving DecidableEq, Repr

/-- The instruction a word stands for under an OPMAP, or the unknown opcode it holds (R77, R78, R111). -/
def decodeWord (o : OpMap) (w : Word) : Except DecodeReject Instr :=
  let f := decodeFields w
  match o.find f.opcode with
  | some m => .ok (instrOfFields m f)
  | none => .error (.unknownOpcode f.opcode)

/-- One word of four bytes in stream order (R53: little-endian is `{B3, B2, B1, B0}`). -/
def wordOfBytes (e : Endian) (b0 b1 b2 b3 : Byte) : Word :=
  match e with
  | .little => b3 ++ b2 ++ b1 ++ b0
  | .big => b0 ++ b1 ++ b2 ++ b3

/-- The four bytes of a word in stream order (R53). -/
def bytesOfWord (e : Endian) (w : Word) : List Byte :=
  match e with
  | .little => [w.extractLsb' 0 8, w.extractLsb' 8 8, w.extractLsb' 16 8, w.extractLsb' 24 8]
  | .big => [w.extractLsb' 24 8, w.extractLsb' 16 8, w.extractLsb' 8 8, w.extractLsb' 0 8]

/-- The first instruction of a byte stream and the bytes after it, or why there is none (R53, R73). -/
def decodeBytes (c : Config) : List Byte → Except DecodeReject (Instr × List Byte)
  | b0 :: b1 :: b2 :: b3 :: rest =>
    match decodeWord c.opmap (wordOfBytes c.streamEndian b0 b1 b2 b3) with
    | .ok i => .ok (i, rest)
    | .error e => .error e
  | _ => .error .truncated

/-- The program of a byte stream: four bytes a word; a length that is no multiple of 4 is not a program (R53, D18). -/
def programOfStream (e : Endian) : List Byte → Option (List Word)
  | [] => some []
  | b0 :: b1 :: b2 :: b3 :: rest => (programOfStream e rest).map (wordOfBytes e b0 b1 b2 b3 :: ·)
  | _ => none

/-- The byte stream of a program (R53, R99). -/
def streamOfProgram (e : Endian) (p : List Word) : List Byte := p.flatMap (bytesOfWord e)

/-! ### The encoder -/

/-- The operation an instruction belongs to. -/
def Instr.mnemonic : Instr → Mnemonic
  | .printRegisters _ => .printRegisters
  | .printOperand _ _ => .printOperand
  | .inputOperand _ _ => .inputOperand
  | .bitwiseInversion _ _ => .bitwiseInversion
  | .maxPowerOfTwo _ _ => .maxPowerOfTwo
  | .disjunction _ _ _ => .disjunction
  | .conjunction _ _ _ => .conjunction
  | .xor _ _ _ => .xor
  | .implication _ _ _ => .implication
  | .coimplication _ _ _ => .coimplication
  | .equivalence _ _ _ => .equivalence
  | .pierceArrow _ _ _ => .pierceArrow
  | .shefferStroke _ _ _ => .shefferStroke
  | .addition _ _ _ => .addition
  | .subtraction _ _ _ => .subtraction
  | .multiplication _ _ _ => .multiplication
  | .division _ _ _ => .division
  | .modulo _ _ _ => .modulo
  | .swap _ _ => .swap
  | .copy _ _ => .copy
  | .setByte _ _ _ => .setByte
  | .shiftLeft _ _ _ => .shiftLeft
  | .shiftRight _ _ _ => .shiftRight
  | .rotateLeft _ _ _ => .rotateLeft
  | .rotateRight _ _ _ => .rotateRight

/-- The operand fields of an instruction: each operand in the field R75 gives it, an unused field 0 (R79, R97). -/
def Instr.operands : Instr → Operand × Operand × Operand
  | .printRegisters base => (BitVec.ofNat 9 base, 0, 0)
  | .printOperand a base => (a, BitVec.ofNat 9 base, 0)
  | .inputOperand a base => (a, BitVec.ofNat 9 base, 0)
  | .bitwiseInversion src dst => (src, 0, dst)
  | .maxPowerOfTwo src dst => (src, 0, dst)
  | .disjunction a b dst => (a, b, dst)
  | .conjunction a b dst => (a, b, dst)
  | .xor a b dst => (a, b, dst)
  | .implication a b dst => (a, b, dst)
  | .coimplication a b dst => (a, b, dst)
  | .equivalence a b dst => (a, b, dst)
  | .pierceArrow a b dst => (a, b, dst)
  | .shefferStroke a b dst => (a, b, dst)
  | .addition a b dst => (a, b, dst)
  | .subtraction a b dst => (a, b, dst)
  | .multiplication a b dst => (a, b, dst)
  | .division a b dst => (a, b, dst)
  | .modulo a b dst => (a, b, dst)
  | .swap a b => (a, b, 0)
  | .copy dst src => (dst, src, 0)
  | .setByte reg idxReg valReg => (reg, idxReg, valReg)
  | .shiftLeft a n dst => (a, n, dst)
  | .shiftRight a n dst => (a, n, dst)
  | .rotateLeft a n dst => (a, n, dst)
  | .rotateRight a n dst => (a, n, dst)

/-- The word of a well-formed instruction under an OPMAP (R71, R75, R76). -/
def encode (o : OpMap) (i : Instr) : Word :=
  packFields ⟨o.code i.mnemonic, i.operands.1, i.operands.2.1, i.operands.2.2⟩

/-! ### What the host asks of the decoder -/

/-- The word whose bits are `w`, taking `nbits` of them: the bits above are 0. -/
def tableWord (nbits w : Nat) : Word := BitVec.ofNat 32 (w % 2 ^ nbits)

/-- The instruction the decoder reads from the table's word `w` under R76's default map, laid out as a byte stream
and read back (R53, D2). -/
def decodeTableWord (nbits w : Nat) : Option Instr :=
  match decodeBytes Config.default (bytesOfWord Config.default.streamEndian (tableWord nbits w)) with
  | .ok (i, _) => some i
  | .error _ => none

end Sys2Proof
end

