-- ==== Sys2Proof/Machine/State.lean ====
section
/-! DEFINITION. The machine's state as plain data: what `10_state.md` gives the core, the parameters of R8, and the
environment the step reads (the host's coming commands and answers); the reasons a step can stop; the state after
reset (R41, R210). -/

namespace Sys2Proof.Machine

open Sys2Proof

/-- The register file RF: exactly 512 words, indexed 0 to 511 (R20, R21). -/
structure RegFile where
  cells : List Word
  len : cells.length = 512
  deriving DecidableEq, Repr

/-- The recoverable run-time fault kinds (R181). They are NOT stops: taking one appends a record and the run goes on
(R183). -/
inductive FaultKind where
  | invalidBase
  | divisionByZero
  | byteRange
  | unknownOpcode
  | invalidInput
  | inputCancelled
  | divisionOverflow
  deriving DecidableEq, Repr

/-- An output record (R30). -/
inductive OutRec where
  /-- PrintRegisters' header line. -/
  | header (base : Nat)
  /-- PrintRegisters' line of register `i`. -/
  | regLine (i : RegIdx) (v : Word) (base : Nat)
  /-- PrintOperand's line of register `a`. -/
  | value (a : RegIdx) (v : Word) (base : Nat)
  /-- The one record of a recoverable fault (R181, R183). -/
  | error (kind : FaultKind) (info : Nat)
  deriving DecidableEq, Repr

/-- The request a pending prompt presents: the register index and the base (R33). -/
structure Prompt where
  a : RegIdx
  base : Nat
  deriving DecidableEq, Repr

/-- The run status (R32). A prompt is pending exactly in WAIT_INPUT, so it is held there (R33, R40). -/
inductive Status where
  | idle
  | running
  | waitInput (p : Prompt)
  | done
  deriving DecidableEq, Repr

/-- The host's answer to a prompt (R33): cancelled, or a finite string of characters. -/
inductive Answer where
  | absent
  | text (s : List Char)
  deriving DecidableEq, Repr

/-- A command of the host at the core's ports (R222), carried out when the status is IDLE or DONE. -/
inductive HostCmd where
  /-- Load a program of words (R28, R213). -/
  | load (p : List Word)
  /-- Load a program carried as bytes, cut by STREAM_ENDIAN (R53). -/
  | loadStream (bytes : List Byte)
  /-- `clear()` (R25). -/
  | clear
  /-- `set(index, value)` (R23). -/
  | set (index : Int) (v : Word)
  /-- `get(index)` (R22). -/
  | get (index : Int)
  /-- `all()` (R24). -/
  | all
  /-- `start` (R35). -/
  | start
  /-- Collect the output of a finished run (R31, R32, R214). -/
  | collect
  deriving DecidableEq, Repr

/-- What a port hands to the host (R222). -/
inductive Reply where
  /-- `get` of a register (R22). -/
  | value (v : Word)
  /-- `all()`: the 512 values in index order (R24). -/
  | snapshot (vs : List Word)
  /-- A failed `get` or `set` (R196). -/
  | violation (e : ContractViolation)
  /-- The whole output of a run (R31). -/
  | output (recs : List OutRec)
  deriving DecidableEq, Repr

/-- The machine. The first five fields are all the state the spec names (R38, R40); `config` is R8's parameters, which
no step changes; the last three are the core's environment, not the spec's state (logs 2 and 3). -/
structure State where
  /-- RF (R20). -/
  rf : RegFile
  /-- The word index of the instruction being executed (R27). -/
  pc : Nat
  /-- PROG, its length being N (R28, R29); nothing before the host's first load (R41). -/
  prog : Option (List Word)
  /-- OUT (R31). -/
  out : List OutRec
  /-- The run status, with the pending prompt (R32, R33). -/
  status : Status
  /-- R8's parameters. -/
  config : Config
  /-- The host's coming answers at the input port, in order (R33). -/
  answers : List Answer
  /-- The host's coming commands at the other ports, in order (R222). -/
  host : List HostCmd
  /-- What the ports have handed to the host, in order (R222). -/
  replies : List Reply
  deriving DecidableEq, Repr

/-- Why the machine stops with a fault. No instruction raises one: a run-time fault of the spec is a record (R183). -/
inductive Fault where
  /-- Raised by the step when the status is RUNNING and `pc` is not below N, so that there is no word to fetch. The
  spec says this state never occurs (R110: "`pc < N` always holds when a fetch happens"). Safe. -/
  | fetchOutsideProgram
  deriving DecidableEq, Repr

/-- Why a step has no meaning. No instruction is refused; the others refuse a command of the host. -/
inductive Refusal where
  /-- Raised only by an arm of `exec` for an instruction without a meaning; there is none. Safe. -/
  | notModelled (mnemonic : String)
  /-- Raised by the host's `start` in DONE: R35 allows it in IDLE only and R222 gives it no move. Safe. -/
  | startNotIdle
  /-- Raised by the host's `start` with no program loaded: R35's precondition. Safe. -/
  | startWithoutProgram
  /-- Raised by the host's `collect` in IDLE: R222 allows it in DONE only. Safe. -/
  | collectNotDone
  /-- Raised by a load of more words than PROG_MAX, which R8 says the implementation does not accept. Safe. -/
  | programTooLong
  /-- Raised by a load of a byte stream that is no whole number of words: "refused before the run" (R53). Safe. -/
  | streamNotAProgram
  deriving DecidableEq, Repr

/-- How one instruction or one step answers. -/
abbrev Result := Host.Outcome State Fault Refusal

/-- 512 zeros (R25, R41). -/
def RegFile.zero : RegFile := ⟨List.replicate 512 0, List.length_replicate⟩

/-- The machine right after hardware reset (R41, R210): registers 0, `pc` 0, OUT empty, IDLE; PROG not loaded
(log 4); R8's defaults (log 1); no command or answer of the host is coming (logs 2 and 3). -/
def State.reset : State where
  rf := RegFile.zero
  pc := 0
  prog := none
  out := []
  status := .idle
  config := Config.default
  answers := []
  host := []
  replies := []

end Sys2Proof.Machine
end

