-- ==== Sys2Proof/Machine/Text.lean ====
section
/-! DEFINITION. The text functions of R8: ParseInt (R125), FormatInt (R124) and Render (R30). Each is
the spec's default or any other function, by `config`. Only ParseInt is read by the machine; FormatInt and Render turn
records into text and no rule depends on them. -/

/-- A Render that is not the default: any function of the record (R8, R30, D4). Free value, log 7. -/
opaque Sys2Proof.Config.otherRender : Sys2Proof.Machine.OutRec → List Char

namespace Sys2Proof.Machine

open Sys2Proof

/-- The value of a digit character: `0` to `9`, then letters of either case for 10 to 35 (R125). -/
def digitValue (c : Char) : Option Nat :=
  if 48 ≤ c.toNat ∧ c.toNat ≤ 57 then some (c.toNat - 48)
  else if 65 ≤ c.toNat ∧ c.toNat ≤ 90 then some (c.toNat - 55)
  else if 97 ≤ c.toNat ∧ c.toNat ≤ 122 then some (c.toNat - 87)
  else none

/-- The number spelled by digits below `base` after an accumulated value; `none` at the first other character. -/
def digitsFrom (base acc : Nat) : List Char → Option Nat
  | [] => some acc
  | c :: cs =>
    match digitValue c with
    | some d => if d < base then digitsFrom base (acc * base + d) cs else none
    | none => none

/-- The number spelled by one or more digits below `base`. -/
def unsignedLiteral (base : Nat) : List Char → Option Nat
  | [] => none
  | c :: cs => digitsFrom base 0 (c :: cs)

/-- The integer spelled by an optional sign and one or more digits below `base`, and nothing else (R95, R125). -/
def signedLiteral (base : Nat) : List Char → Option Int
  | '+' :: cs => (unsignedLiteral base cs).map Int.ofNat
  | '-' :: cs => (unsignedLiteral base cs).map (fun n => -Int.ofNat n)
  | cs => (unsignedLiteral base cs).map Int.ofNat

/-- A signed 32-bit integer's pattern, or `none` outside its range (R125). -/
def narrow32 (z : Int) : Option Word :=
  if -2 ^ 31 ≤ z ∧ z ≤ 2 ^ 31 - 1 then some (wrap32 z) else none

/-- R125's default ParseInt; outside the bases it is defined for, a free value (log 5). -/
def parseIntDefault (cs : List Char) (base : Nat) : Option Word :=
  if baseLegal base then (signedLiteral base cs).bind narrow32
  else Config.parseIntIllegalBase cs base

/-- The parameter ParseInt (R8, R123). -/
def parseInt (c : Config) (cs : List Char) (base : Nat) : Option Word :=
  match c.parse with
  | .standard => parseIntDefault cs base
  | .other => Config.otherParseInt cs base

/-- The digit character of a value 0 to 35: `0` to `9`, then `A` to `Z` (R124). -/
def digitChar (d : Nat) : Char := if d < 10 then Char.ofNat (48 + d) else Char.ofNat (55 + d)

/-- The digits of `n` in radix `base`, most significant first, put before `acc`; `fuel` bounds their number. -/
def digitsOf (base : Nat) : Nat → Nat → List Char → List Char
  | 0, _, acc => acc
  | fuel + 1, n, acc =>
    if n / base = 0 then digitChar (n % base) :: acc
    else digitsOf base fuel (n / base) (digitChar (n % base) :: acc)

/-- R124's default FormatInt, 32 digits sufficing for a 32-bit value in every legal base; outside the bases it is defined
for, a free value (log 5). -/
def formatIntDefault (v : Word) (base : Nat) : List Char :=
  if baseLegal base then
    if s32 v = 0 then ['0']
    else if s32 v < 0 then '-' :: digitsOf base 32 (s32 v).natAbs []
    else digitsOf base 32 (s32 v).natAbs []
  else Config.formatIntIllegalBase v base

/-- The parameter FormatInt (R8, R124). -/
def formatInt (c : Config) (v : Word) (base : Nat) : List Char :=
  match c.format with
  | .standard => formatIntDefault v base
  | .other => Config.otherFormatInt v base

/-- The fault codes (R181, D12). -/
def faultCode : FaultKind → Nat
  | .invalidBase => 1
  | .divisionByZero => 2
  | .byteRange => 3
  | .unknownOpcode => 4
  | .invalidInput => 5
  | .inputCancelled => 6
  | .divisionOverflow => 7

/-- The default Render (R30, R124): FormatInt gives the value part of `RegLine` and `Value`, and a `Value` shows as that
alone (DEDUCED from R122's example, log 7); the spec gives no other text (log 7). -/
def renderDefault (c : Config) : OutRec → List Char
  | .header base => Config.headerText base
  | .regLine i v base => Config.regLineText i base (formatInt c v base)
  | .value _ v base => formatInt c v base
  | .error kind info => Config.errorText (faultCode kind) info

/-- The parameter Render (R8, R30). -/
def render (c : Config) (rec : OutRec) : List Char :=
  match c.render with
  | .standard => renderDefault c rec
  | .other => Config.otherRender rec

/-- The text of OUT, one line for each record in order: the source's output (R30, R31, D4). -/
def State.outputText (s : State) : List (List Char) := s.out.map (render s.config)

end Sys2Proof.Machine
end

