-- ==== Sys2Proof/Machine/Ops.lean ====
section
/-! DEFINITION. The named operations on the state: registers (R20 to R25), the output buffer (R31), the advance of
`pc` and the end of a run (R112, R115), taking a recoverable fault (R183), the prompt (R33, R123), fetching (R110),
and the ways an instruction ends. -/

namespace Sys2Proof.Machine

open Sys2Proof

/-! ### Registers -/

/-- Entry `i` of the register file; a 9-bit index is always in range (R22). -/
def RegFile.get (f : RegFile) (i : RegIdx) : Word := f.cells[i.toNat]'(by rw [f.len]; exact i.isLt)

/-- `x[i]`: register `i` (R13, R22). -/
def State.reg (s : State) (i : RegIdx) : Word := s.rf.get i

/-- The register file with one entry overwritten (R23). -/
def RegFile.put (f : RegFile) (i : RegIdx) (v : Word) : RegFile :=
  ⟨f.cells.set i.toNat v, by rw [List.length_set, f.len]⟩

/-- `x[i] <- v` (R13, R23). -/
def State.setReg (s : State) (i : RegIdx) (v : Word) : State := { s with rf := s.rf.put i v }

/-- `all()`: the 512 values in index order (R24). -/
def State.snapshot (s : State) : List Word := s.rf.cells

/-- `clear()`: every register becomes zero (R25). -/
def State.clearRegs (s : State) : State := { s with rf := RegFile.zero }

/-! ### Program, output, program counter -/

/-- The words of PROG, none before a load (R28). -/
def State.words (s : State) : List Word := s.prog.getD []

/-- N, the program length in words (R29). -/
def State.progLen (s : State) : Nat := s.words.length

/-- `out_append` of records, in order (R31). -/
def State.emit (s : State) (recs : List OutRec) : State := { s with out := s.out ++ recs }

/-- `pc <- pc + 1`; then, if `pc = N`, the run is DONE (R112, R115). -/
def State.advance (s : State) : State :=
  { s with
    pc := s.pc + 1
    status := if s.pc + 1 = s.progLen then .done else s.status }

/-- The run status changed and nothing else (R32). -/
def State.setStatus (s : State) (st : Status) : State := { s with status := st }

/-- The prompt answered: RUNNING again, the answer consumed (R33, R123). -/
def State.answered (s : State) (rest : List Answer) : State := { s with status := .running, answers := rest }

/-! ### How an instruction ends (R113) -/

/-- It writes register `d` and appends nothing. -/
def writeResult (d : RegIdx) (v : Word) (s : State) : Result := .next (s.setReg d v).advance

/-- It appends records and writes no register. -/
def appendResult (recs : List OutRec) (s : State) : Result := .next (s.emit recs).advance

/-- `raise K(info)`: taking a recoverable fault. One record is appended, no register is written, and the run goes on
with the next word; nothing is saved and there is no handler and no return (R182, R183, R184). -/
def raiseFault (k : FaultKind) (info : Nat) (s : State) : Result := appendResult [.error k info] s

/-- Read `a`, combine, write `dst` (the unary register instructions, `42_unary.md`). -/
def unaryResult (f : Word → Word) (src dst : RegIdx) (s : State) : Result := writeResult dst (f (s.reg src)) s

/-- Read `a` and `b`, combine, write `dst` (R135, R150, R170: both reads precede the write). -/
def binaryResult (f : Word → Word → Word) (a b dst : RegIdx) (s : State) : Result :=
  writeResult dst (f (s.reg a) (s.reg b)) s

/-- The common part of Division and Modulo (R154, R155): zero divisor first, then the overflow pair under
DIV_OVF = fault, else the result. -/
def divideResult (f : Word → Word → Word) (a b dst : RegIdx) (s : State) : Result :=
  if divisorZero (s.reg b) then raiseFault .divisionByZero b.toNat s
  else if quotientOverflows (s.reg a) (s.reg b) ∧ s.config.divOvf = .fault then
    raiseFault .divisionOverflow b.toNat s
  else binaryResult f a b dst s

/-! ### PrintRegisters -/

/-- The register lines of a snapshot in index order (R121). -/
def regLines (base : Nat) (snap : List Word) : List OutRec :=
  snap.zipIdx.map (fun p => .regLine (BitVec.ofNat 9 p.2) p.1 base)

/-! ### The prompt -/

/-- Issue `prompt(a, base)`: the status becomes WAIT_INPUT with the request, and nothing else changes (R33, R123). -/
def requestInput (a : RegIdx) (base : Nat) (s : State) : Result := .next (s.setStatus (.waitInput ⟨a, base⟩))

/-- What InputOperand does with the port's answer (R123), the status being RUNNING again. -/
def useAnswer (p : Prompt) (r : Answer) (s : State) : Result :=
  match r with
  | .absent => raiseFault .inputCancelled p.a.toNat s
  | .text cs =>
    match parseInt s.config cs p.base with
    | none => raiseFault .invalidInput p.a.toNat s
    | some v => writeResult p.a v s

/-- The second half of InputOperand: with an answer, it is consumed and the instruction completes; with none, the
machine stays in WAIT_INPUT (R33, R123, R218; log 8). -/
def completeInput (p : Prompt) (s : State) : Result :=
  match s.answers with
  | [] => .next s
  | r :: rest => useAnswer p r (s.answered rest)

/-! ### Fetch -/

/-- The word `PROG[pc]`, if `pc` is below N (R110). -/
def State.fetch (s : State) : Option Word := s.words[s.pc]?

/-- A program with word `k` replaced by `w`, lengthened with zero words up to it where it is shorter. -/
def placeWord : List Word → Nat → Word → List Word
  | [], 0, w => [w]
  | [], k + 1, w => 0 :: placeWord [] k w
  | _ :: ws, 0, w => w :: ws
  | x :: ws, k + 1, w => x :: placeWord ws k w

/-- `s` with `w` in PROG where the next fetch reads, a run being in progress: the load and start that bring a program
to run (R35, R213; log 13). -/
def State.placeAtFetch (s : State) (w : Word) : State :=
  { s with prog := some (placeWord s.words s.pc w), status := .running }

end Sys2Proof.Machine
end

