-- ==== Sys2Proof/Machine/Arith.lean ====
section
/-! DEFINITION. The meanings of the integer arithmetic instructions (`44_arith.md`, R150). -/

namespace Sys2Proof.Machine

open Sys2Proof

/-- Addition (R151). -/
def execAddition (a b dst : RegIdx) (s : State) : Result := binaryResult sum a b dst s

/-- Subtraction (R152): `op1` is the minuend. -/
def execSubtraction (a b dst : RegIdx) (s : State) : Result := binaryResult difference a b dst s

/-- Multiplication (R153). -/
def execMultiplication (a b dst : RegIdx) (s : State) : Result := binaryResult product a b dst s

/-- Division (R154): `op1` is the dividend. -/
def execDivision (a b dst : RegIdx) (s : State) : Result := divideResult quotient a b dst s

/-- Modulo (R155). -/
def execModulo (a b dst : RegIdx) (s : State) : Result := divideResult remainder a b dst s

end Sys2Proof.Machine
end

