-- ==== Sys2Proof/Machine/Bitwise.lean ====
section
/-! DEFINITION. The meanings of the binary bitwise instructions (`43_bitwise.md`, R135). -/

namespace Sys2Proof.Machine

open Sys2Proof

/-- Disjunction (R136). -/
def execDisjunction (a b dst : RegIdx) (s : State) : Result := binaryResult disj a b dst s

/-- Conjunction (R137). -/
def execConjunction (a b dst : RegIdx) (s : State) : Result := binaryResult conj a b dst s

/-- Xor (R138). -/
def execXor (a b dst : RegIdx) (s : State) : Result := binaryResult exclOr a b dst s

/-- Implication (R139). -/
def execImplication (a b dst : RegIdx) (s : State) : Result := binaryResult implies a b dst s

/-- Coimplication (R140). -/
def execCoimplication (a b dst : RegIdx) (s : State) : Result := binaryResult coimplies a b dst s

/-- Equivalence (R141). -/
def execEquivalence (a b dst : RegIdx) (s : State) : Result := binaryResult equiv a b dst s

/-- PierceArrow (R142). -/
def execPierceArrow (a b dst : RegIdx) (s : State) : Result := binaryResult nor a b dst s

/-- ShefferStroke (R143). -/
def execShefferStroke (a b dst : RegIdx) (s : State) : Result := binaryResult nand a b dst s

end Sys2Proof.Machine
end

