-- ==== Sys2Proof/Machine/Io.lean ====
section
/-! DEFINITION. The meanings of the input and output instructions (`41_io.md`). -/

namespace Sys2Proof.Machine

open Sys2Proof

/-- PrintRegisters (R121). -/
def execPrintRegisters (base : Nat) (s : State) : Result :=
  if baseLegal base then appendResult (.header base :: regLines base s.snapshot) s
  else raiseFault .invalidBase base s

/-- PrintOperand (R122, C3). -/
def execPrintOperand (a : RegIdx) (base : Nat) (s : State) : Result :=
  if baseLegal base then appendResult [.value a (s.reg a) base] s
  else raiseFault .invalidBase base s

/-- InputOperand (R123): in RUNNING the base check and the request; in WAIT_INPUT its completion (R117 allows the two
steps, log 8). -/
def execInputOperand (a : RegIdx) (base : Nat) (s : State) : Result :=
  match s.status with
  | .waitInput p => completeInput p s
  | .idle | .running | .done =>
    if s.config.inputBaseCheck ∧ ¬ baseLegal base then raiseFault .invalidBase base s
    else requestInput a base s

end Sys2Proof.Machine
end

