-- ==== Sys2Proof/Machine/Move.lean ====
section
/-! DEFINITION. The meanings of the register move and byte insert instructions (`45_move_setbyte.md`). -/

namespace Sys2Proof.Machine

open Sys2Proof

/-- Swap (R160): both reads precede both writes. -/
def execSwap (a b : RegIdx) (s : State) : Result :=
  .next (((s.setReg a (s.reg b)).setReg b (s.reg a)).advance)

/-- Copy (R161): the first operand is the destination. -/
def execCopy (dst src : RegIdx) (s : State) : Result := writeResult dst (s.reg src) s

/-- SetByte (R162): index and value come from registers; all three reads precede the write. -/
def execSetByte (reg idxReg valReg : RegIdx) (s : State) : Result :=
  if byteOutOfRange (s.reg idxReg) (s.reg valReg) then raiseFault .byteRange reg.toNat s
  else writeResult reg (insertByte (s.reg reg) (s32 (s.reg idxReg)).toNat (s.reg valReg)) s

end Sys2Proof.Machine
end

