-- ==== Sys2Proof/Machine/Shift.lean ====
section
/-! DEFINITION. The meanings of the shift and rotate instructions (`46_shift_rotate.md`, R170). -/

namespace Sys2Proof.Machine

open Sys2Proof

/-- ShiftLeft (R171). -/
def execShiftLeft (a shiftReg dst : RegIdx) (s : State) : Result :=
  binaryResult (fun v c => shl v (shiftCount c)) a shiftReg dst s

/-- ShiftRight (R172), arithmetic or logical by SHR_ARITH. -/
def execShiftRight (a shiftReg dst : RegIdx) (s : State) : Result :=
  binaryResult (fun v c => shiftRightBy s.config.shrArith v (shiftCount c)) a shiftReg dst s

/-- RotateLeft (R173). -/
def execRotateLeft (a shiftReg dst : RegIdx) (s : State) : Result :=
  binaryResult (fun v c => rotateLeftBy v (shiftCount c)) a shiftReg dst s

/-- RotateRight (R174). -/
def execRotateRight (a shiftReg dst : RegIdx) (s : State) : Result :=
  binaryResult (fun v c => rotateRightBy v (shiftCount c)) a shiftReg dst s

end Sys2Proof.Machine
end

