-- ==== Sys2Proof/Machine/Unary.lean ====
section
/-! DEFINITION. The meanings of the unary register instructions (`42_unary.md`). -/

namespace Sys2Proof.Machine

open Sys2Proof

/-- BitwiseInversion (R130). -/
def execBitwiseInversion (src dst : RegIdx) (s : State) : Result := unaryResult inversion src dst s

/-- MaxPowerOfTwo (R131). -/
def execMaxPowerOfTwo (src dst : RegIdx) (s : State) : Result := unaryResult maxPow2 src dst s

end Sys2Proof.Machine
end

