-- ==== Sys2Proof/Machine/Dispatch.lean ====
section
/-! DEFINITION. The dispatch: one arm per operation (R111); the unknown opcode is the step's own case (R114). -/

namespace Sys2Proof.Machine

open Sys2Proof

/-- The handler of an instruction, with the advance of R112. -/
def exec (i : Instr) (s : State) : Host.Outcome State Fault Refusal :=
  match i with
  | .printRegisters base => Sys2Proof.Machine.execPrintRegisters base s
  | .printOperand a base => Sys2Proof.Machine.execPrintOperand a base s
  | .inputOperand a base => Sys2Proof.Machine.execInputOperand a base s
  | .bitwiseInversion src dst => Sys2Proof.Machine.execBitwiseInversion src dst s
  | .maxPowerOfTwo src dst => Sys2Proof.Machine.execMaxPowerOfTwo src dst s
  | .disjunction a b dst => Sys2Proof.Machine.execDisjunction a b dst s
  | .conjunction a b dst => Sys2Proof.Machine.execConjunction a b dst s
  | .xor a b dst => Sys2Proof.Machine.execXor a b dst s
  | .implication a b dst => Sys2Proof.Machine.execImplication a b dst s
  | .coimplication a b dst => Sys2Proof.Machine.execCoimplication a b dst s
  | .equivalence a b dst => Sys2Proof.Machine.execEquivalence a b dst s
  | .pierceArrow a b dst => Sys2Proof.Machine.execPierceArrow a b dst s
  | .shefferStroke a b dst => Sys2Proof.Machine.execShefferStroke a b dst s
  | .addition a b dst => Sys2Proof.Machine.execAddition a b dst s
  | .subtraction a b dst => Sys2Proof.Machine.execSubtraction a b dst s
  | .multiplication a b dst => Sys2Proof.Machine.execMultiplication a b dst s
  | .division a b dst => Sys2Proof.Machine.execDivision a b dst s
  | .modulo a b dst => Sys2Proof.Machine.execModulo a b dst s
  | .swap a b => Sys2Proof.Machine.execSwap a b s
  | .copy dst src => Sys2Proof.Machine.execCopy dst src s
  | .setByte reg idxReg valReg => Sys2Proof.Machine.execSetByte reg idxReg valReg s
  | .shiftLeft a shiftReg dst => Sys2Proof.Machine.execShiftLeft a shiftReg dst s
  | .shiftRight a shiftReg dst => Sys2Proof.Machine.execShiftRight a shiftReg dst s
  | .rotateLeft a shiftReg dst => Sys2Proof.Machine.execRotateLeft a shiftReg dst s
  | .rotateRight a shiftReg dst => Sys2Proof.Machine.execRotateRight a shiftReg dst s

end Sys2Proof.Machine
end

