-- ==== Sys2Proof/Machine/Ports.lean ====
section
/-! DEFINITION. The host's ports (R22 to R25, R28, R35, R53, R213, R214, R222) and hardware reset (R210), and the
carrying out of the host's next command. The codec ports are in Decode.lean. -/

namespace Sys2Proof.Machine

open Sys2Proof

/-- `get(index)` (R22, R196): the value, or IndexOutOfRange; no state changes. -/
def portGet (index : Int) (s : State) : Except ContractViolation Word :=
  if 0 ≤ index ∧ index ≤ 511 then .ok (s.reg (BitVec.ofInt 9 index)) else .error .indexOutOfRange

/-- `set(index, value)` (R23, R196): one register overwritten, or IndexOutOfRange. -/
def portSet (index : Int) (v : Word) (s : State) : Except ContractViolation State :=
  if 0 ≤ index ∧ index ≤ 511 then .ok (s.setReg (BitVec.ofInt 9 index) v) else .error .indexOutOfRange

/-- PROG replaced and nothing else (R28). -/
def State.setProg (s : State) (p : List Word) : State := { s with prog := some p }

/-- The host's coming commands become `rest` (log 3). -/
def State.setHost (s : State) (rest : List HostCmd) : State := { s with host := rest }

/-- Load PROG and N (R28, R213), within PROG_MAX (R8, log 6). -/
def portLoad (p : List Word) (s : State) : Result :=
  match s.config.progMax with
  | none => .next (s.setProg p)
  | some m => if p.length ≤ m then .next (s.setProg p) else .refused .programTooLong

/-- Load a program carried as bytes (R53, D18). -/
def portLoadStream (bytes : List Byte) (s : State) : Result :=
  match programOfStream s.config.streamEndian bytes with
  | some p => portLoad p s
  | none => .refused .streamNotAProgram

/-- `start` in IDLE with a program loaded (R35, R211): `pc` 0, OUT empty, RUNNING or DONE; the registers stay (C2). -/
def portStart (s : State) : Result :=
  match s.status, s.prog with
  | .idle, some p => .next { s with pc := 0, out := [], status := if 0 < p.length then .running else .done }
  | .idle, none => .refused .startWithoutProgram
  | _, _ => .refused .startNotIdle

/-- Hand something to the host (R222). -/
def State.reply (s : State) (r : Reply) : State := { s with replies := s.replies ++ [r] }

/-- The host collects OUT in DONE and the status returns to IDLE (R31, R32, R214). -/
def portCollect (s : State) : Result :=
  match s.status with
  | .done => .next ((s.reply (.output s.out)).setStatus .idle)
  | .idle | .running | .waitInput _ => .refused .collectNotDone

/-- Hardware reset (R41, R210): `clear`, `pc` 0, OUT empty, IDLE; PROG is to be loaded again (log 4). -/
def State.hardReset (s : State) : State :=
  { s.clearRegs with pc := 0, out := [], status := .idle, prog := none }

/-- What one command of the host does at the ports, the status being IDLE or DONE (R222). -/
def hostCommand (c : HostCmd) (s : State) : Result :=
  match c with
  | .load p => portLoad p s
  | .loadStream bytes => portLoadStream bytes s
  | .clear => .next s.clearRegs
  | .set index v =>
    match portSet index v s with
    | .ok t => .next t
    | .error e => .next (s.reply (.violation e))
  | .get index =>
    match portGet index s with
    | .ok v => .next (s.reply (.value v))
    | .error e => .next (s.reply (.violation e))
  | .all => .next (s.reply (.snapshot s.snapshot))
  | .start => portStart s
  | .collect => portCollect s

/-- In IDLE and DONE the host's next command is carried out; with none coming, nothing changes (R32, R222, log 3). -/
def hostTurn (s : State) : Result :=
  match s.host with
  | [] => .next s
  | c :: rest => hostCommand c (s.setHost rest)

end Sys2Proof.Machine
end

