-- ==== Sys2Proof/Machine/Cycle.lean ====
section
/-! DEFINITION. One step of the machine (R117), by the run status (R32). -/

namespace Sys2Proof.Machine

open Sys2Proof

/-- RUNNING: fetch, decode, dispatch (R110, R111); an opcode OPMAP maps nothing to is the fault UnknownOpcode (R114). -/
def runWord (s : State) : Result :=
  match s.fetch with
  | none => .fault .fetchOutsideProgram
  | some w =>
    match decodeWord s.config.opmap w with
    | .ok i => exec i s
    | .error _ => raiseFault .unknownOpcode (decodeFields w).opcode.toNat s

/-- One step by the run status: an instruction, the waiting InputOperand, or the host's turn (R32, R117, R222). -/
def cycle (s : State) : Result :=
  match s.status with
  | .running => runWord s
  | .waitInput p => completeInput p s
  | .idle | .done => hostTurn s

end Sys2Proof.Machine
end

