-- ==== Sys2Proof/Machine/Step.lean ====
section
/-! DEFINITION. The step of the machine and the placing of one instruction where it fetches. -/

namespace Sys2Proof.Machine

open Sys2Proof

/-- One step (R117, R222). -/
def step (s : State) : Host.Outcome State Fault Refusal := cycle s

/-- `s` with the table's word `w` in PROG where the next fetch reads, and a run in progress, so that the very next step
runs it (log 13). -/
def State.withFetchWord (s : State) (nbits w : Nat) : State := s.placeAtFetch (tableWord nbits w)

end Sys2Proof.Machine
end

