-- ==== Sys2Proof/Machine/Assembler.lean ====
section
/-! DEFINITION. The assembler (`31_assembler.md`): text to words under an OPMAP. It is software around the hardware
(R4); no step uses it. -/

namespace Sys2Proof.Machine

open Sys2Proof

/-- The fatal errors of assembly (R100). -/
inductive AsmError where
  /-- The first token names no operation (R93); not the run-time fault of that name (R100). -/
  | unknownOpcode
  | invalidRegister
  | operandParseFailure
  | encodingOutOfRange
  deriving DecidableEq, Repr

/-- FatalAssemblyError (R100): the failing line's original text; the error stands for the message, whose wording the
spec does not give. -/
structure FatalAssemblyError where
  line : List Char
  error : AsmError
  deriving DecidableEq, Repr

/-! ### Lines and tokens -/

/-- Put a character at the front of the first of a list of texts. -/
def consFirst (c : Char) : List (List Char) → List (List Char)
  | [] => [[c]]
  | l :: ls => (c :: l) :: ls

/-- The lines of a text: a line ends at LF, at CR LF, or at the end of the text (R90, D19). -/
def splitLines : List Char → List (List Char)
  | [] => [[]]
  | '\n' :: cs => [] :: splitLines cs
  | '\r' :: '\n' :: cs => [] :: splitLines cs
  | c :: cs => consFirst c (splitLines cs)

/-- The characters trimming removes: space, tab and CR (R91, D19). -/
def isBlank (c : Char) : Bool := c == ' ' || c == '\t' || c == '\r'

/-- A line without leading and trailing blanks (R91). -/
def trim (l : List Char) : List Char := ((l.dropWhile isBlank).reverse.dropWhile isBlank).reverse

/-- The separators of tokens: space and comma (R92). -/
def isSeparator (c : Char) : Bool := c == ' ' || c == ','

/-- A text cut at every separator. -/
def cutAtSeparators : List Char → List (List Char)
  | [] => [[]]
  | c :: cs => if isSeparator c then [] :: cutAtSeparators cs else consFirst c (cutAtSeparators cs)

/-- The tokens of a text: cut on spaces and commas, empty tokens dropped (R92). -/
def tokens (l : List Char) : List (List Char) := (cutAtSeparators l).filter (fun t => !t.isEmpty)

/-- The spelling of each mnemonic (R93). -/
def mnemonicName : Mnemonic → String
  | .printRegisters => "PrintRegisters"
  | .printOperand => "PrintOperand"
  | .inputOperand => "InputOperand"
  | .bitwiseInversion => "BitwiseInversion"
  | .maxPowerOfTwo => "MaxPowerOfTwo"
  | .disjunction => "Disjunction"
  | .conjunction => "Conjunction"
  | .xor => "Xor"
  | .implication => "Implication"
  | .coimplication => "Coimplication"
  | .equivalence => "Equivalence"
  | .pierceArrow => "PierceArrow"
  | .shefferStroke => "ShefferStroke"
  | .addition => "Addition"
  | .subtraction => "Subtraction"
  | .multiplication => "Multiplication"
  | .division => "Division"
  | .modulo => "Modulo"
  | .swap => "Swap"
  | .copy => "Copy"
  | .setByte => "SetByte"
  | .shiftLeft => "ShiftLeft"
  | .shiftRight => "ShiftRight"
  | .rotateLeft => "RotateLeft"
  | .rotateRight => "RotateRight"

/-- The operation a token names, by case-sensitive exact match (R93). -/
def mnemonicOfToken (t : List Char) : Option Mnemonic :=
  Mnemonic.all.find? (fun m => (mnemonicName m).toList == t)

/-! ### Operands -/

/-- The role of a written operand (R96). -/
inductive Slot where
  | register
  | base
  deriving DecidableEq, Repr

/-- The written operands of each format, in order (R75, R96). -/
def slotsOf : Format → List Slot
  | .b => [.base]
  | .rb => [.register, .base]
  | .rNoneR => [.register, .register]
  | .rr => [.register, .register]
  | .rrr => [.register, .register, .register]

/-- A register token: `R` or `r`, then decimal digits spelling 0 to 511 (R94). -/
def registerToken (t : List Char) : Except AsmError Int :=
  match t with
  | [] => .error .invalidRegister
  | c :: ds =>
    if c = 'R' ∨ c = 'r' then
      match unsignedLiteral 10 ds with
      | some n => if n ≤ 511 then .ok n else .error .invalidRegister
      | none => .error .invalidRegister
    else .error .invalidRegister

/-- A base token: a signed decimal integer, with no range check here (R95). -/
def baseToken (t : List Char) : Except AsmError Int :=
  match signedLiteral 10 t with
  | some z => .ok z
  | none => .error .operandParseFailure

/-- One operand token in its role. -/
def operandToken (k : Slot) (t : List Char) : Except AsmError Int :=
  match k with
  | .register => registerToken t
  | .base => baseToken t

/-- The operand values of a line, left to right: a missing trailing token gives 0 (R97), tokens beyond the pattern are
OperandParseFailure (R98, D19). -/
def operandValues : List Slot → List (List Char) → Except AsmError (List Int)
  | [], [] => .ok []
  | [], _ :: _ => .error .operandParseFailure
  | _ :: ks, [] =>
    match operandValues ks [] with
    | .ok vs => .ok (0 :: vs)
    | .error e => .error e
  | k :: ks, t :: ts =>
    match operandToken k t with
    | .error e => .error e
    | .ok v =>
      match operandValues ks ts with
      | .ok vs => .ok (v :: vs)
      | .error e => .error e

/-- The written values put into `op1`, `op2`, `op3` (R96): for the unary operations the second goes to `op3`. -/
def placeOperands (f : Format) (vs : List Int) : Int × Int × Int :=
  match f with
  | .rNoneR => (vs.getD 0 0, 0, vs.getD 1 0)
  | .b | .rb | .rr | .rrr => (vs.getD 0 0, vs.getD 1 0, vs.getD 2 0)

/-! ### Lines to words -/

/-- An instruction line's word, or its first error in the order mnemonic, operands left to right, `encode` (R101). A
line without any token names no operation (log 12). -/
def assembleTokens (o : OpMap) (ts : List (List Char)) : Except AsmError Word :=
  match ts with
  | [] => .error .unknownOpcode
  | t :: rest =>
    match mnemonicOfToken t with
    | none => .error .unknownOpcode
    | some m =>
      match operandValues (slotsOf m.format) rest with
      | .error e => .error e
      | .ok vs =>
        let ops := placeOperands m.format vs
        match encodePort (o.code m).toNat ops.1 ops.2.1 ops.2.2 with
        | .ok w => .ok w
        | .error _ => .error .encodingOutOfRange

/-- A line that is assembled: not blank and not a comment by its trimmed form (R91). -/
def isInstructionLine (l : List Char) : Bool :=
  match trim l with
  | [] => false
  | '/' :: '/' :: _ => false
  | _ => true

/-- Lines in order, stopping at the first that fails (R99, R100, R101). -/
def assembleLines (o : OpMap) : List (List Char) → Except FatalAssemblyError (List Word)
  | [] => .ok []
  | l :: ls =>
    if isInstructionLine l then
      match assembleTokens o (tokens (trim l)) with
      | .error e => .error ⟨l, e⟩
      | .ok w =>
        match assembleLines o ls with
        | .ok ws => .ok (w :: ws)
        | .error e => .error e
    else assembleLines o ls

/-- The assembler: source text to program (R90, R99), under OPMAP. -/
def assemble (o : OpMap) (source : List Char) : Except FatalAssemblyError (List Word) :=
  assembleLines o (splitLines source)

/-- `assemble(sourceText) -> byteStream` (R99, R53). -/
def assembleStream (c : Config) (source : List Char) : Except FatalAssemblyError (List Byte) :=
  match assemble c.opmap source with
  | .ok p => .ok (streamOfProgram c.streamEndian p)
  | .error e => .error e

end Sys2Proof.Machine
end

