-- ==== Sys2Proof/Safety.lean ====
section
/-! DEFINITION. The terms claims use: what an instruction changes and leaves unchanged, when a run is in order, and the
parts of a word. -/

namespace Sys2Proof.Machine

open Sys2Proof

/-- `t` is `s` one word further on: `pc` advanced, the run DONE if that was the last word, and the program, the
parameters and the host's side unchanged (R112, R115). -/
def Advanced (s t : State) : Prop :=
  t.pc = s.pc + 1 ∧ t.status = (if s.pc + 1 = s.progLen then .done else s.status) ∧
  t.prog = s.prog ∧ t.config = s.config ∧ t.answers = s.answers ∧ t.host = s.host ∧ t.replies = s.replies

/-- Every register but `d` is as before. -/
def SameRegsBut (s t : State) (d : RegIdx) : Prop := ∀ r, r ≠ d → t.reg r = s.reg r

/-- Every register is as before. -/
def SameRegs (s t : State) : Prop := ∀ r, t.reg r = s.reg r

/-- The instruction wrote `v` to register `d`, appended nothing, and went on (R113). -/
def WroteOnly (s t : State) (d : RegIdx) (v : Word) : Prop :=
  t.reg d = v ∧ SameRegsBut s t d ∧ t.out = s.out ∧ Advanced s t

/-- The instruction appended these records, wrote no register, and went on (R113). -/
def AppendedOnly (s t : State) (recs : List OutRec) : Prop :=
  SameRegs s t ∧ t.out = s.out ++ recs ∧ Advanced s t

/-- The instruction took the recoverable fault `k`: exactly one record, no register, next word (R183). -/
def TookFault (s t : State) (k : FaultKind) (info : Nat) : Prop := AppendedOnly s t [.error k info]

/-- `s` with records put before its OUT. -/
def State.outAfter (s : State) (recs : List OutRec) : State := { s with out := recs ++ s.out }

/-- The program, the parameters, the host's coming commands and the replies are as before (R28, R36). -/
def SameHostSide (s t : State) : Prop :=
  t.prog = s.prog ∧ t.config = s.config ∧ t.host = s.host ∧ t.replies = s.replies

/-- Byte `k` of a register value, bits `8k+7` to `8k` (R52). -/
def byteOf (v : Word) (k : Nat) : Byte := v.extractLsb' (8 * k) 8

/-- A run is in progress (R32). -/
def State.InRun (s : State) : Prop := s.status = .running ∨ ∃ p, s.status = .waitInput p

/-- What holds between steps of an orderly machine: OPMAP is injective (R8); the program is within PROG_MAX (R8); in
RUNNING a word is left to fetch (R32, R110); in WAIT_INPUT the word at `pc` is the InputOperand that asked, with the
request it presents, and its base is legal where it is checked (R32, R33, R123). -/
def State.Inv (s : State) : Prop :=
  s.config.wf = true ∧ (∀ m, s.config.progMax = some m → s.progLen ≤ m) ∧
  (s.status = .running → s.pc < s.progLen) ∧
  (∀ p, s.status = .waitInput p →
    (∃ w, s.fetch = some w ∧ decodeWord s.config.opmap w = .ok (.inputOperand p.a p.base)) ∧
    (s.config.inputBaseCheck = true → baseLegal p.base))

/-- `k` steps, stopping at the first that answers no next state. -/
def runSteps : Nat → State → Result
  | 0, s => .next s
  | k + 1, s =>
    match step s with
    | .next t => runSteps k t
    | .fault r => .fault r
    | .refused r => .refused r

end Sys2Proof.Machine
end

