-- ==== Sys2Proof/Certificates/Slice0/Obligations.lean ====
section
/-! DEFINITION. The statements about the machine. Each docstring names the rule or the sections it rests on, and the
decision of the spec or the log entry where one is involved. -/

open Sys2Proof Sys2Proof.Machine

/-! ### Reset, invariant, whole-machine rules -/

/-- Hardware reset (R41, R210), from any state: registers 0, `pc` 0, OUT empty, IDLE, the parameters as they were; and
`State.reset` is such a state, with R8's defaults. Rests on the spec's decision D13; that PROG reads as not loaded is
the model's choice (log 4). -/
def Obligations.ResetLeavesCoreCleared : Prop :=
  (∀ s : State, (∀ r, s.hardReset.reg r = 0) ∧ s.hardReset.pc = 0 ∧ s.hardReset.out = [] ∧
    s.hardReset.status = .idle ∧ s.hardReset.prog = none ∧ s.hardReset.config = s.config) ∧
  State.reset.hardReset = State.reset ∧ State.reset.config = Config.default

/-- The invariant holds right after reset. Rests on the defaults of R8 and on the values of log 4 and log 6. -/
def Obligations.ResetMeetsInvariant : Prop := State.reset.Inv

/-- Every step, of a run or of the host's turn, keeps the invariant (R32, R33, R110, R112, R115, R222; `10_state.md`
sections 4 and 5). That the step carries out the host's commands is log 3, that WAIT_INPUT is a step boundary log 8. -/
def Obligations.EveryStepKeepsInvariant : Prop :=
  ∀ s t : State, s.Inv → step s = .next t → t.Inv

/-- While a run is in progress a step answers a next state, never a stop; the program, the parameters and the host's
side stay as they are, and OUT only grows, by at most the 513 records of PrintRegisters (R28, R31, R36, R62, R188). -/
def Obligations.RunStepAnswersAndFrames : Prop :=
  ∀ s : State, s.Inv → s.InRun → ∃ t, step s = .next t ∧ SameHostSide s t ∧
    ∃ recs, t.out = s.out ++ recs ∧ recs.length ≤ 513

/-- If as many answers are coming as words are left, a run ends: in at most two steps a word the status is DONE with
`pc` = N, the program and the host's side unchanged and OUT only grown (R115, R188). That WAIT_INPUT is a step of its
own is log 8. -/
def Obligations.RunEndsWhenPromptsAnswered : Prop :=
  ∀ s : State, s.Inv → s.status = .running → s.progLen - s.pc ≤ s.answers.length →
    ∃ k t, k ≤ 2 * (s.progLen - s.pc) ∧ runSteps k s = .next t ∧
      t.status = .done ∧ t.pc = s.progLen ∧ SameHostSide s t ∧ ∃ recs, t.out = s.out ++ recs

/-! ### The codec -/

/-- Decoding the word of a well-formed instruction gives it back, under every injective OPMAP and with every operand at
every value its field admits (R71, R73, R75, R77). -/
def Obligations.DecodeEncodeRoundTrip : Prop :=
  ∀ (o : OpMap) (i : Instr), o.wf = true → i.wf = true → decodeWord o (encode o i) = .ok i

/-- The codec laws (R74): `decode` undoes `encode` on every tuple in range, and `encode` undoes `decode` on every word. -/
def Obligations.CodecIsBijection : Prop :=
  (∀ o a b c : Int, (0 ≤ o ∧ o ≤ 31) → (0 ≤ a ∧ a ≤ 511) → (0 ≤ b ∧ b ≤ 511) → (0 ≤ c ∧ c ≤ 511) →
    ∃ w, encodePort o a b c = .ok w ∧ decodePort w = (o, a, b, c)) ∧
  (∀ w : Word, ∃ o a b c, decodePort w = (o, a, b, c) ∧ encodePort o a b c = .ok w)

/-- The `encode` port (R71, R72): the word is the sum of the placed fields, and EncodingOutOfRange is answered exactly
when an input is outside its field. -/
def Obligations.EncodePlacesFieldsOrFails : Prop :=
  ∀ o a b c : Int,
    if (0 ≤ o ∧ o ≤ 31) ∧ (0 ≤ a ∧ a ≤ 511) ∧ (0 ≤ b ∧ b ≤ 511) ∧ (0 ≤ c ∧ c ≤ 511) then
      ∃ w, encodePort o a b c = .ok w ∧ (w.toNat : Int) = o + a * 2 ^ 5 + b * 2 ^ 14 + c * 2 ^ 23
    else encodePort o a b c = .error .encodingOutOfRange

/-- Selection is by the low five bits alone, and every word either is an instruction of the operation OPMAP numbers so
or is an unknown opcode that OPMAP numbers nothing with (R77, R78, R80). -/
def Obligations.OpcodeFieldAloneSelects : Prop :=
  ∀ (o : OpMap) (w : Word),
    (∃ i, decodeWord o w = .ok i ∧ i.wf = true ∧ o.code i.mnemonic = w.extractLsb' 0 5) ∨
    (decodeWord o w = .error (.unknownOpcode (w.extractLsb' 0 5)) ∧ ∀ m, o.code m ≠ w.extractLsb' 0 5)

/-- A field its operation does not use is ignored: whatever stands there, the word is the same instruction (R75, R79).
Rests on the spec's decision D5. -/
def Obligations.UnusedFieldsIgnored : Prop :=
  ∀ (o : OpMap) (f : Fields) (m : Mnemonic) (x y : Operand), o.find f.opcode = some m →
    (m.format = .b → decodeWord o (packFields { f with op2 := x, op3 := y }) = decodeWord o (packFields f)) ∧
    (m.format = .rb ∨ m.format = .rr →
      decodeWord o (packFields { f with op3 := x }) = decodeWord o (packFields f)) ∧
    (m.format = .rNoneR → decodeWord o (packFields { f with op2 := x }) = decodeWord o (packFields f))

/-- The worked encodings of R83 and `95_test_vectors.md`, by hand, under the default OPMAP: a sanity check of the bit
layout. The numbers are the spec's decision D1. -/
def Obligations.WorkedEncodingsDecode : Prop :=
  decodeWord OpMap.default 0x0100400D#32 = .ok (.addition 0 1 2) ∧
  decodeWord OpMap.default 0x00000140#32 = .ok (.printRegisters 10) ∧
  decodeWord OpMap.default 0x000400A1#32 = .ok (.printOperand 5 16) ∧
  decodeWord OpMap.default 0x00800003#32 = .ok (.bitwiseInversion 0 1) ∧
  decodeWord OpMap.default 0x00000033#32 = .ok (.copy 1 0) ∧
  decodeWord OpMap.default 0x01808025#32 = .ok (.disjunction 1 2 3) ∧
  decodeWord OpMap.default 0x01808038#32 = .ok (.rotateRight 1 2 3) ∧
  decodeWord OpMap.default 0xFFFFFFFF#32 = .error (.unknownOpcode 31)

/-! ### The step -/

/-- In RUNNING, a step is the handler of the instruction the word at `pc` decodes to (R110, R111, R117); the advance of
`pc` is part of `exec`. -/
def Obligations.StepRunsDecodedInstruction : Prop :=
  ∀ (s : State) (w : Word) (i : Instr), s.status = .running → s.fetch = some w →
    decodeWord s.config.opmap w = .ok i → step s = exec i s

/-- In WAIT_INPUT, a step is the handler of the InputOperand at `pc`, which the word there still decodes to (R117, R123).
The split of InputOperand into two steps is log 8. -/
def Obligations.WaitingStepRunsItsInputOperand : Prop :=
  ∀ (s : State) (p : Prompt), s.Inv → s.status = .waitInput p →
    ∃ w i, s.fetch = some w ∧ decodeWord s.config.opmap w = .ok i ∧ i = .inputOperand p.a p.base ∧ step s = exec i s

/-- A prompt the host never answers holds the machine: however many steps, the state stays as it is, in WAIT_INPUT
(R218, U12). That the machine then steps to itself is log 8. -/
def Obligations.UnansweredPromptNeverEnds : Prop :=
  ∀ (s : State) (p : Prompt) (k : Nat), s.status = .waitInput p → s.answers = [] →
    runSteps k s = .next s

/-- An opcode no operation has (R114): one record with the opcode's value, no register, the next word. -/
def Obligations.UnknownOpcodeTakesFault : Prop :=
  ∀ (s : State) (w : Word), s.status = .running → s.fetch = some w →
    (∀ m, s.config.opmap.code m ≠ w.extractLsb' 0 5) →
    ∃ t, step s = .next t ∧ TookFault s t .unknownOpcode (w.extractLsb' 0 5).toNat

/-- `exec` of every instruction answers a next state and does not both write and append: OUT is as before or every
register is (`40_dispatch.md` section 1, R37; `60_exceptions.md` R188). Program, parameters and the host's side stay. That
the next state of InputOperand may be its request, or the same state while no answer comes, is log 8. -/
def Obligations.HandlersWriteOrAppend : Prop :=
  ∀ (i : Instr) (s : State), ∃ t, exec i s = .next t ∧ (t.out = s.out ∨ SameRegs s t) ∧ SameHostSide s t

/-- The advance (R112). In RUNNING a step, whatever its handler did and for an unknown opcode too, leaves `pc + 1`, and
DONE if that is N, else RUNNING; the one handler that does not finish in it is an InputOperand that asks, which
finishes so on its answer. That the prompt is a step of its own is log 8. -/
def Obligations.EveryHandlerAdvances : Prop :=
  (∀ s : State, s.status = .running → s.pc < s.progLen → ∃ t, step s = .next t ∧
    ((t.pc = s.pc + 1 ∧ t.status = if s.pc + 1 = s.progLen then .done else .running) ∨
      ∃ w a base, s.fetch = some w ∧ decodeWord s.config.opmap w = .ok (.inputOperand a base) ∧
        t = s.setStatus (.waitInput ⟨a, base⟩))) ∧
  (∀ (s : State) (p : Prompt), s.status = .waitInput p → s.answers ≠ [] → ∃ t, step s = .next t ∧
    t.pc = s.pc + 1 ∧ t.status = if s.pc + 1 = s.progLen then .done else .running)

/-- An instruction that appends an error record appends that record alone, writes no register and goes on to the next
word; nothing is saved (R183). -/
def Obligations.FaultingInstructionOnlyRecords : Prop :=
  ∀ (i : Instr) (s t : State) (k : FaultKind) (n : Nat), exec i s = .next t →
    .error k n ∈ t.out.drop s.out.length →
    t.out = s.out ++ [.error k n] ∧ SameRegs s t ∧ t.pc = s.pc + 1 ∧ SameHostSide s t

/-- Which instruction can raise which fault, when, and with which info (R181). The kinds and infos are the spec's
decision D12, the single ByteRange D16. -/
def Obligations.FaultsComeFromTheirCauses : Prop :=
  ∀ (i : Instr) (s t : State) (k : FaultKind) (n : Nat),
    (∀ p, s.status = .waitInput p → i = .inputOperand p.a p.base) → exec i s = .next t →
    .error k n ∈ t.out.drop s.out.length →
    (k = .invalidBase ∧ ¬ (2 ≤ n ∧ n ≤ 36) ∧
      (i = .printRegisters n ∨ (∃ a, i = .printOperand a n) ∨
        ∃ a, i = .inputOperand a n ∧ s.config.inputBaseCheck = true)) ∨
    (∃ a b dst, (i = .division a b dst ∨ i = .modulo a b dst) ∧ n = b.toNat ∧
      ((k = .divisionByZero ∧ (s.reg b).toInt = 0) ∨
        (k = .divisionOverflow ∧ s.config.divOvf = .fault ∧ (s.reg a).toInt = -2 ^ 31 ∧ (s.reg b).toInt = -1))) ∨
    (∃ r x v, i = .setByte r x v ∧ k = .byteRange ∧ n = r.toNat ∧
      ¬ (0 ≤ (s.reg x).toInt ∧ (s.reg x).toInt ≤ 3 ∧ 0 ≤ (s.reg v).toInt ∧ (s.reg v).toInt ≤ 255)) ∨
    (∃ a base rest, i = .inputOperand a base ∧ n = a.toNat ∧
      ((k = .inputCancelled ∧ s.answers = .absent :: rest) ∨
        ∃ cs, k = .invalidInput ∧ s.answers = .text cs :: rest ∧ parseInt s.config cs base = none))

/-- No instruction reads OUT (R31): with other records before it, an instruction does the same and leaves those records
before it. -/
def Obligations.OutputIsNeverRead : Prop :=
  ∀ (i : Instr) (s : State) (recs : List OutRec), ∃ t, exec i s = .next t ∧
    exec i (s.outAfter recs) = .next (t.outAfter recs)

/-! ### Input and output instructions -/

/-- PrintRegisters (`41_io.md` section 2): with a legal base 513 records, the header and then each register's line in
index order, and no register written; else InvalidBase(base). The records and their order are the spec's decision D4. -/
def Obligations.PrintRegistersAppends : Prop :=
  ∀ (base : Nat) (s : State), ∃ t, exec (.printRegisters base) s = .next t ∧
    if 2 ≤ base ∧ base ≤ 36 then
      ∃ recs, AppendedOnly s t recs ∧ recs.length = 513 ∧ recs[0]? = some (.header base) ∧
        ∀ i : RegIdx, recs[i.toNat + 1]? = some (.regLine i (s.reg i) base)
    else TookFault s t .invalidBase base

/-- PrintOperand (R122). -/
def Obligations.PrintOperandAppends : Prop :=
  ∀ (a : RegIdx) (base : Nat) (s : State), ∃ t, exec (.printOperand a base) s = .next t ∧
    if 2 ≤ base ∧ base ≤ 36 then AppendedOnly s t [.value a (s.reg a) base]
    else TookFault s t .invalidBase base

/-- InputOperand in RUNNING (`41_io.md` section 2): an illegal base is InvalidBase before any prompt where
INPUT_BASE_CHECK holds; else the prompt is issued and nothing but the status changes. The check's place is the spec's
decision D10, the split into two steps log 8. -/
def Obligations.InputOperandAsks : Prop :=
  ∀ (a : RegIdx) (base : Nat) (s : State), s.status = .running → ∃ t, exec (.inputOperand a base) s = .next t ∧
    if s.config.inputBaseCheck = true ∧ ¬ (2 ≤ base ∧ base ≤ 36) then TookFault s t .invalidBase base
    else t = s.setStatus (.waitInput ⟨a, base⟩)

/-- InputOperand completes on the answer to its prompt (`41_io.md` section 2): cancelled and unparsable input are one
record each and write nothing; parsed input is written and appends nothing; the answer is consumed and the run goes on.
ParseInt is the parameter (D11, log 5); the split into two steps is log 8. -/
def Obligations.InputOperandCompletes : Prop :=
  ∀ (a : RegIdx) (base : Nat) (s : State) (r : Answer) (rest : List Answer),
    s.status = .waitInput ⟨a, base⟩ → s.answers = r :: rest →
    ∃ t, exec (.inputOperand a base) s = .next t ∧
      match r with
      | .absent => TookFault (s.answered rest) t .inputCancelled a.toNat
      | .text cs =>
        match parseInt s.config cs base with
        | none => TookFault (s.answered rest) t .invalidInput a.toNat
        | some v => WroteOnly (s.answered rest) t a v

/-! ### Unary instructions -/

/-- BitwiseInversion (R130): all 32 bits complemented; applying it twice restores the value. -/
def Obligations.BitwiseInversionComplements : Prop :=
  ∀ (src dst : RegIdx) (s : State), ∃ t, exec (.bitwiseInversion src dst) s = .next t ∧
    WroteOnly s t dst (~~~(s.reg src)) ∧
    ∃ u, exec (.bitwiseInversion dst dst) t = .next u ∧ u.reg dst = s.reg src

/-- MaxPowerOfTwo (R131): for a positive value the largest power of two not above it, else 0. -/
def Obligations.MaxPowerOfTwoIsLargest : Prop :=
  ∀ (src dst : RegIdx) (s : State), ∃ t v, exec (.maxPowerOfTwo src dst) s = .next t ∧ WroteOnly s t dst v ∧
    if 0 < (s.reg src).toInt then
      ∃ k : Nat, k ≤ 30 ∧ (2 : Int) ^ k ≤ (s.reg src).toInt ∧ (s.reg src).toInt < 2 ^ (k + 1) ∧ v.toInt = 2 ^ k
    else v = 0

/-! ### Binary bitwise instructions -/

/-- Disjunction, Conjunction and Xor are OR, AND and exclusive OR (`43_bitwise.md` section 2). The spec takes these three
meanings from general knowledge (G2). -/
def Obligations.DisjunctionConjunctionXor : Prop :=
  ∀ (a b dst : RegIdx) (s : State),
    (∃ t, exec (.disjunction a b dst) s = .next t ∧ WroteOnly s t dst (s.reg a ||| s.reg b)) ∧
    (∃ t, exec (.conjunction a b dst) s = .next t ∧ WroteOnly s t dst (s.reg a &&& s.reg b)) ∧
    (∃ t, exec (.xor a b dst) s = .next t ∧ WroteOnly s t dst (s.reg a ^^^ s.reg b))

/-- Implication (R139), `a` the antecedent. -/
def Obligations.ImplicationOfAntecedent : Prop :=
  ∀ (a b dst : RegIdx) (s : State), ∃ t, exec (.implication a b dst) s = .next t ∧
    WroteOnly s t dst (~~~(s.reg a) ||| s.reg b)

/-- Coimplication (R140), `b` the antecedent. -/
def Obligations.CoimplicationIsConverse : Prop :=
  ∀ (a b dst : RegIdx) (s : State), ∃ t, exec (.coimplication a b dst) s = .next t ∧
    WroteOnly s t dst (s.reg a ||| ~~~(s.reg b))

/-- Equivalence (R141), symmetric. -/
def Obligations.EquivalenceIsXnor : Prop :=
  ∀ (a b dst : RegIdx) (s : State), ∃ t, exec (.equivalence a b dst) s = .next t ∧
    WroteOnly s t dst ((~~~(s.reg a) &&& ~~~(s.reg b)) ||| (s.reg a &&& s.reg b)) ∧
    exec (.equivalence b a dst) s = .next t

/-- PierceArrow (R142), symmetric. -/
def Obligations.PierceArrowIsNor : Prop :=
  ∀ (a b dst : RegIdx) (s : State), ∃ t, exec (.pierceArrow a b dst) s = .next t ∧
    WroteOnly s t dst (~~~(s.reg a ||| s.reg b)) ∧ exec (.pierceArrow b a dst) s = .next t

/-- ShefferStroke (R143), symmetric. -/
def Obligations.ShefferStrokeIsNand : Prop :=
  ∀ (a b dst : RegIdx) (s : State), ∃ t, exec (.shefferStroke a b dst) s = .next t ∧
    WroteOnly s t dst (~~~(s.reg a &&& s.reg b)) ∧ exec (.shefferStroke b a dst) s = .next t

/-- The truth table of the eight operations, for each of the 32 bits (`43_bitwise.md` section 1). The table is the
spec's own derivation from the formulas. -/
def Obligations.BitwiseTruthTable : Prop :=
  ∀ (a b dst : RegIdx) (s : State) (k : Nat), k < 32 →
    let A := (s.reg a).getLsbD k
    let B := (s.reg b).getLsbD k
    ∃ t1 t2 t3 t4 t5 t6 t7 t8,
      exec (.disjunction a b dst) s = .next t1 ∧ (t1.reg dst).getLsbD k = (A || B) ∧
      exec (.conjunction a b dst) s = .next t2 ∧ (t2.reg dst).getLsbD k = (A && B) ∧
      exec (.xor a b dst) s = .next t3 ∧ (t3.reg dst).getLsbD k = (A != B) ∧
      exec (.implication a b dst) s = .next t4 ∧ (t4.reg dst).getLsbD k = (!A || B) ∧
      exec (.coimplication a b dst) s = .next t5 ∧ (t5.reg dst).getLsbD k = (A || !B) ∧
      exec (.equivalence a b dst) s = .next t6 ∧ (t6.reg dst).getLsbD k = (A == B) ∧
      exec (.pierceArrow a b dst) s = .next t7 ∧ (t7.reg dst).getLsbD k = !(A || B) ∧
      exec (.shefferStroke a b dst) s = .next t8 ∧ (t8.reg dst).getLsbD k = !(A && B)

/-- The laws the spec derives for the bitwise instructions: Coimplication is Implication with the operands exchanged,
Equivalence is the complement of exclusive OR, and a complement is `-v - 1` as a signed integer (`42_unary.md`,
`43_bitwise.md` section 2). -/
def Obligations.BitwiseDerivedLaws : Prop :=
  ∀ (a b dst : RegIdx) (s : State),
    exec (.coimplication a b dst) s = exec (.implication b a dst) s ∧
    (∃ t, exec (.equivalence a b dst) s = .next t ∧ t.reg dst = ~~~(s.reg a ^^^ s.reg b)) ∧
    (∃ t, exec (.bitwiseInversion a dst) s = .next t ∧ (t.reg dst).toInt = -(s.reg a).toInt - 1)

/-! ### Arithmetic -/

/-- Addition (R151): the exact sum of the signed values, wrapped modulo 2^32. -/
def Obligations.AdditionWraps : Prop :=
  ∀ (a b dst : RegIdx) (s : State), ∃ t v, exec (.addition a b dst) s = .next t ∧ WroteOnly s t dst v ∧
    (v.toNat : Int) = ((s.reg a).toInt + (s.reg b).toInt) % 2 ^ 32

/-- Subtraction (R152): `a` the minuend. -/
def Obligations.SubtractionWraps : Prop :=
  ∀ (a b dst : RegIdx) (s : State), ∃ t v, exec (.subtraction a b dst) s = .next t ∧ WroteOnly s t dst v ∧
    (v.toNat : Int) = ((s.reg a).toInt - (s.reg b).toInt) % 2 ^ 32

/-- Multiplication (R153): the low 32 bits of the exact product. -/
def Obligations.MultiplicationWraps : Prop :=
  ∀ (a b dst : RegIdx) (s : State), ∃ t v, exec (.multiplication a b dst) s = .next t ∧ WroteOnly s t dst v ∧
    (v.toNat : Int) = ((s.reg a).toInt * (s.reg b).toInt) % 2 ^ 32

/-- The results of the wrapping operations are the same whether the operands are read signed or unsigned (the spec's
derivation in R151 and R153). -/
def Obligations.WrappingResultsIgnoreSign : Prop :=
  ∀ (a b dst : RegIdx) (s : State),
    (∃ t, exec (.addition a b dst) s = .next t ∧
      (t.reg dst).toNat = ((s.reg a).toNat + (s.reg b).toNat) % 2 ^ 32) ∧
    (∃ t, exec (.subtraction a b dst) s = .next t ∧ t.reg dst + s.reg b = s.reg a) ∧
    (∃ t, exec (.multiplication a b dst) s = .next t ∧
      (t.reg dst).toNat = ((s.reg a).toNat * (s.reg b).toNat) % 2 ^ 32)

/-- Division (R154): zero divisor; the pair (-2^31, -1) by DIV_OVF, for either value of it (which one is the default is
the spec's decision D8); else the quotient rounded toward zero, which fits. -/
def Obligations.DivisionTruncates : Prop :=
  ∀ (a b dst : RegIdx) (s : State), ∃ t, exec (.division a b dst) s = .next t ∧
    if (s.reg b).toInt = 0 then TookFault s t .divisionByZero b.toNat
    else if (s.reg a).toInt = -2 ^ 31 ∧ (s.reg b).toInt = -1 then
      match s.config.divOvf with
      | .wrap => WroteOnly s t dst 0x80000000#32
      | .fault => TookFault s t .divisionOverflow b.toNat
    else ∃ q, WroteOnly s t dst q ∧ q.toInt = (s.reg a).toInt.tdiv (s.reg b).toInt

/-- Modulo (R155), for either value of DIV_OVF: the same faults; else the remainder of the truncating division, with
the dividend's sign or zero and below the divisor in size. -/
def Obligations.ModuloTakesDividendSign : Prop :=
  ∀ (a b dst : RegIdx) (s : State), ∃ t, exec (.modulo a b dst) s = .next t ∧
    if (s.reg b).toInt = 0 then TookFault s t .divisionByZero b.toNat
    else if ((s.reg a).toInt = -2 ^ 31 ∧ (s.reg b).toInt = -1) ∧ s.config.divOvf = .fault then
      TookFault s t .divisionOverflow b.toNat
    else ∃ r, WroteOnly s t dst r ∧
      r.toInt = (s.reg a).toInt - (s.reg b).toInt * (s.reg a).toInt.tdiv (s.reg b).toInt ∧
      r.toInt.natAbs < (s.reg b).toInt.natAbs ∧ (r.toInt = 0 ∨ r.toInt.sign = (s.reg a).toInt.sign)

/-- `A = B * (A / B) + (A mod B)` in words, for every non-zero divisor, under DIV_OVF = wrap; at (-2^31, -1) it holds
modulo 2^32, and so in words too (the spec's derivation in `44_arith.md` section 3). -/
def Obligations.QuotientAndRemainderRebuild : Prop :=
  ∀ (a b dst : RegIdx) (s : State), s.reg b ≠ 0 → s.config.divOvf = .wrap →
    ∃ t u, exec (.division a b dst) s = .next t ∧ exec (.modulo a b dst) s = .next u ∧
      s.reg b * t.reg dst + u.reg dst = s.reg a

/-! ### Moves and byte insert -/

/-- Swap (R160): the two values exchanged, everything else as before, in either order of the operands; with `a = b`
nothing changes. -/
def Obligations.SwapExchanges : Prop :=
  ∀ (a b : RegIdx) (s : State), ∃ t, exec (.swap a b) s = .next t ∧ t.reg a = s.reg b ∧ t.reg b = s.reg a ∧
    (∀ r, r ≠ a → r ≠ b → t.reg r = s.reg r) ∧ t.out = s.out ∧ Advanced s t ∧ exec (.swap b a) s = .next t

/-- Copy (R161): the first operand is the destination; the source is unchanged. -/
def Obligations.CopyWritesFirstOperand : Prop :=
  ∀ (dst src : RegIdx) (s : State), ∃ t, exec (.copy dst src) s = .next t ∧ WroteOnly s t dst (s.reg src) ∧
    t.reg src = s.reg src

/-- SetByte (`45_move_setbyte.md` section 2): index and value, read from registers as signed integers, out of range is
one ByteRange(reg); else exactly the named byte is replaced. The single fault kind is the spec's decision D16. -/
def Obligations.SetByteReplacesOneByte : Prop :=
  ∀ (reg idxReg valReg : RegIdx) (s : State), ∃ t, exec (.setByte reg idxReg valReg) s = .next t ∧
    if 0 ≤ (s.reg idxReg).toInt ∧ (s.reg idxReg).toInt ≤ 3 ∧ 0 ≤ (s.reg valReg).toInt ∧ (s.reg valReg).toInt ≤ 255 then
      ∃ v, WroteOnly s t reg v ∧ ∀ k : Nat, k < 4 →
        byteOf v k = if (k : Int) = (s.reg idxReg).toInt then byteOf (s.reg valReg) 0 else byteOf (s.reg reg) k
    else TookFault s t .byteRange reg.toNat

/-! ### Shifts and rotates -/

/-- ShiftLeft (R171): by the low five bits of the count register, zeros entering at bit 0. -/
def Obligations.ShiftLeftByLowFiveBits : Prop :=
  ∀ (a c dst : RegIdx) (s : State), ∃ t, exec (.shiftLeft a c dst) s = .next t ∧
    WroteOnly s t dst (s.reg a <<< ((s.reg c).extractLsb' 0 5).toNat)

/-- ShiftRight (R172): arithmetic under SHR_ARITH, logical without it, for either value of it (which one is the default is
the spec's decision D6). -/
def Obligations.ShiftRightByParameter : Prop :=
  ∀ (a c dst : RegIdx) (s : State), ∃ t, exec (.shiftRight a c dst) s = .next t ∧
    if s.config.shrArith = true then WroteOnly s t dst ((s.reg a).sshiftRight ((s.reg c).extractLsb' 0 5).toNat)
    else WroteOnly s t dst (s.reg a >>> ((s.reg c).extractLsb' 0 5).toNat)

/-- RotateLeft (`46_shift_rotate.md` section 2): no bit lost or duplicated. That a negative count register counts by its
low five bits is the spec's decision D7. -/
def Obligations.RotateLeftMovesEveryBit : Prop :=
  ∀ (a c dst : RegIdx) (s : State), ∃ t, exec (.rotateLeft a c dst) s = .next t ∧
    WroteOnly s t dst ((s.reg a).rotateLeft ((s.reg c).toNat % 32)) ∧
    ∀ k : Nat, k < 32 → (t.reg dst).getLsbD ((k + (s.reg c).toNat) % 32) = (s.reg a).getLsbD k

/-- RotateRight (`46_shift_rotate.md` section 2), likewise (D7). -/
def Obligations.RotateRightMovesEveryBit : Prop :=
  ∀ (a c dst : RegIdx) (s : State), ∃ t, exec (.rotateRight a c dst) s = .next t ∧
    WroteOnly s t dst ((s.reg a).rotateRight ((s.reg c).toNat % 32)) ∧
    ∀ k : Nat, k < 32 → (t.reg dst).getLsbD k = (s.reg a).getLsbD ((k + (s.reg c).toNat) % 32)

/-! ### The host's ports -/

/-- `get` (R22) and `all` (R24): in range the entry of the snapshot, which has 512 entries; else IndexOutOfRange; inside
the machine `x[i]` is `get(i)`. -/
def Obligations.GetReadsTheSnapshot : Prop :=
  ∀ (s : State) (index : Int),
    s.snapshot.length = 512 ∧ (∀ i : RegIdx, portGet i.toNat s = .ok (s.reg i)) ∧
    if 0 ≤ index ∧ index ≤ 511 then ∃ v, portGet index s = .ok v ∧ s.snapshot[index.toNat]? = some v
    else portGet index s = .error .indexOutOfRange

/-- `set` (R23): in range the slot is overwritten and no other entry, nor anything else, changes; else
IndexOutOfRange; inside the machine `x[i] <- v` is `set(i, v)`. -/
def Obligations.SetOverwritesOneSlot : Prop :=
  ∀ (s : State) (index : Int) (v : Word),
    (∀ i : RegIdx, portSet i.toNat v s = .ok (s.setReg i v)) ∧
    if 0 ≤ index ∧ index ≤ 511 then
      ∃ t, portSet index v s = .ok t ∧ portGet index t = .ok v ∧
        (∀ j : Int, j ≠ index → portGet j t = portGet j s) ∧ { t with rf := s.rf } = s
    else portSet index v s = .error .indexOutOfRange

/-- `clear` (R25): every register zero and nothing else changed. -/
def Obligations.ClearZeroesEverySlot : Prop :=
  ∀ s : State, ∃ t, hostCommand .clear s = .next t ∧ t.snapshot = List.replicate 512 0 ∧ { t with rf := s.rf } = s

/-- `start` (R35): in IDLE with a program loaded, `pc` 0, OUT empty, RUNNING or at once DONE, the registers and the
program as the host left them. -/
def Obligations.StartBeginsAtWordZero : Prop :=
  ∀ (s : State) (p : List Word), s.status = .idle → s.prog = some p →
    ∃ t, hostCommand .start s = .next t ∧ t.pc = 0 ∧ t.out = [] ∧
      t.status = (if p.length = 0 then .done else .running) ∧ SameRegs s t ∧ SameHostSide s t ∧ t.answers = s.answers

/-- Loading a program, in words or as a byte stream of those words (`20_memory.md` section 2, `70_reset_and_hazards.md`
sections 2 and 4): PROG is replaced and nothing else, where PROG_MAX allows it. The byte order is the parameter (D2);
that a longer program is refused is log 6. -/
def Obligations.LoadReplacesProgram : Prop :=
  ∀ (s : State) (p : List Word),
    if ∃ m, s.config.progMax = some m ∧ m < p.length then
      hostCommand (.load p) s = .refused .programTooLong ∧
      hostCommand (.loadStream (streamOfProgram s.config.streamEndian p)) s = .refused .programTooLong
    else hostCommand (.load p) s = .next (s.setProg p) ∧
      hostCommand (.loadStream (streamOfProgram s.config.streamEndian p)) s = .next (s.setProg p)

/-- Collecting (`70_reset_and_hazards.md` sections 2 and 4): in DONE the host gets OUT whole, the status returns to IDLE,
and nothing else changes; in IDLE, and for a `start` in DONE or without a program, the command is refused (log 10). -/
def Obligations.CollectDeliversOutput : Prop :=
  ∀ s : State,
    (s.status = .done → ∃ t, hostCommand .collect s = .next t ∧ t.replies = s.replies ++ [.output s.out] ∧
      t.status = .idle ∧ { t with replies := s.replies, status := .done } = s ∧
      hostCommand .start s = .refused .startNotIdle) ∧
    (s.status = .idle → hostCommand .collect s = .refused .collectNotDone ∧
      (s.prog = none → hostCommand .start s = .refused .startWithoutProgram))

/-- In IDLE and DONE a step carries out the host's next command, and with none coming nothing changes; during a run the
commands wait (`10_state.md` section 5, `70_reset_and_hazards.md` section 4; the queue is log 3). -/
def Obligations.HostActsOnlyBetweenRuns : Prop :=
  ∀ s : State,
    (s.status = .idle ∨ s.status = .done → s.host = [] → step s = .next s) ∧
    (∀ c rest, s.status = .idle ∨ s.status = .done → s.host = c :: rest →
      step s = hostCommand c (s.setHost rest)) ∧
    (∀ t, s.InRun → step s = .next t → t.host = s.host ∧ t.replies = s.replies)

/-! ### Byte streams, the assembler, the text functions -/

/-- A program carried as bytes comes back, in either byte order, and exactly the streams whose length is no multiple of
four are no program (`20_memory.md` section 2; D2, D18). -/
def Obligations.StreamCarriesProgram : Prop :=
  (∀ (e : Endian) (p : List Word), programOfStream e (streamOfProgram e p) = some p) ∧
  (∀ (e : Endian) (bs : List Byte), programOfStream e bs = none ↔ bs.length % 4 ≠ 0)

/-- Every word the assembler produces is the encoding of an instruction it decodes to: its opcode is an operation's and
its unused fields are 0 (`31_assembler.md` sections 3 and 4). Extra tokens being refused is the spec's decision D19. -/
def Obligations.AssembledWordsAreInstructions : Prop :=
  ∀ (o : OpMap) (source : List Char) (ws : List Word), o.wf = true → assemble o source = .ok ws →
    ∀ w ∈ ws, ∃ i, decodeWord o w = .ok i ∧ i.wf = true ∧ encode o i = w

/-- The first failing line ends the pass, whatever stands after it, and the error names its text (`31_assembler.md`
section 4). -/
def Obligations.FirstFailingLineIsFatal : Prop :=
  ∀ (o : OpMap) (pre post : List (List Char)) (l : List Char) (ws : List Word) (e : AsmError),
    assembleLines o pre = .ok ws → isInstructionLine l = true → assembleTokens o (tokens (trim l)) = .error e →
    assembleLines o (pre ++ l :: post) = .error ⟨l, e⟩

/-- One word per instruction line, in source order (`31_assembler.md` sections 1 and 4). -/
def Obligations.OneWordPerInstructionLine : Prop :=
  ∀ (o : OpMap) (source : List Char) (ws : List Word), assemble o source = .ok ws →
    (ws.map Except.ok : List (Except AsmError Word)) =
      ((splitLines source).filter isInstructionLine).map (fun l => assembleTokens o (tokens (trim l)))

/-- Where FormatInt and ParseInt are the defaults, ParseInt reads back what FormatInt writes, for every value and every
legal base (`41_io.md` section 3). Both defaults are the spec's decisions D9 and D11. -/
def Obligations.ParseReadsBackFormat : Prop :=
  ∀ (c : Config) (v : Word) (base : Nat), c.format = .standard → c.parse = .standard → 2 ≤ base → base ≤ 36 →
    parseInt c (formatInt c v base) base = some v
end

