-- ==== Sys2Proof/Laws/Decode.lean ====
section
/-! SUPPORT. What an OPMAP selects, and the opcode field of an encoded instruction. -/

namespace Sys2Proof

theorem Mnemonic.mem_all (m : Mnemonic) : m ∈ Mnemonic.all := by cases m <;> decide

/-- An injective OPMAP gives each operation a number of its own (R8). -/
theorem OpMap.code_inj {o : OpMap} (h : o.wf = true) {m n : Mnemonic} (e : o.code m = o.code n) : m = n :=
  List.inj_on_of_nodup_map (of_decide_eq_true h) m.mem_all n.mem_all e

/-- Under an injective OPMAP the number of an operation selects it (R77). -/
theorem OpMap.find_code {o : OpMap} (h : o.wf = true) (m : Mnemonic) : o.find (o.code m) = some m := by
  cases hf : o.find (o.code m) with
  | none =>
    have := List.find?_eq_none.mp hf m m.mem_all
    simp at this
  | some n =>
    have e : o.code n = o.code m := by simpa using List.find?_some hf
    rw [o.code_inj h e]

/-- An opcode that selects an operation is its number (R77). -/
theorem OpMap.code_of_find {o : OpMap} {c : Opcode} {m : Mnemonic} (h : o.find c = some m) : o.code m = c := by
  simpa using List.find?_some h

/-- An opcode selects nothing exactly when no operation has it (R78). -/
theorem OpMap.find_eq_none_iff {o : OpMap} {c : Opcode} : o.find c = none ↔ ∀ m, o.code m ≠ c := by
  rw [OpMap.find, List.find?_eq_none]
  simp [Mnemonic.mem_all]

theorem decodeWord_ok {o : OpMap} {w : Word} {m : Mnemonic} (h : o.find (decodeFields w).opcode = some m) :
    decodeWord o w = .ok (instrOfFields m (decodeFields w)) := by simp [decodeWord, h]

theorem instrOfFields_mnemonic (m : Mnemonic) (f : Fields) : (instrOfFields m f).mnemonic = m := by cases m <;> rfl

theorem instrOfFields_wf (m : Mnemonic) (f : Fields) : (instrOfFields m f).wf = true := by
  have h1 := f.op1.isLt
  have h2 := f.op2.isLt
  cases m <;> simp [instrOfFields, Instr.wf, baseFits] <;> omega

theorem packFields_toNat (f : Fields) :
    (packFields f).toNat = f.opcode.toNat + f.op1.toNat * 2 ^ 5 + f.op2.toNat * 2 ^ 14 + f.op3.toNat * 2 ^ 23 := by
  have h0 := f.opcode.isLt
  have h1 := f.op1.isLt
  have h2 := f.op2.isLt
  have h3 := f.op3.isLt
  rw [packFields, BitVec.toNat_ofNat, Nat.mod_eq_of_lt]
  omega

theorem decodeFields_opcode_toNat (w : Word) : (decodeFields w).opcode.toNat = w.toNat % 2 ^ 5 := by
  simp [decodeFields]

/-- The opcode field of a packed word (R70, R71). -/
theorem packFields_opcode (f : Fields) : (decodeFields (packFields f)).opcode = f.opcode := by
  apply BitVec.eq_of_toNat_eq
  have h0 := f.opcode.isLt
  rw [decodeFields_opcode_toNat, packFields_toNat]
  omega

end Sys2Proof
end

