-- ==== Sys2Proof/Laws/Operands.lean ====
section
/-! SUPPORT. R12's functions and the operations' values in terms of the library's bit vectors. -/

namespace Sys2Proof.Machine

open Sys2Proof

theorem wrap32_toNat (z : Int) : ((wrap32 z).toNat : Int) = z % 2 ^ 32 := by
  simp only [wrap32, BitVec.toNat_ofInt]
  omega

theorem wrap32_natCast (n : Nat) : wrap32 n = BitVec.ofNat 32 n := BitVec.ofInt_natCast 32 n

/-- `s32(wrap32(z)) = z` for `z` in the signed range (R12). -/
theorem s32_wrap32 {z : Int} (h1 : -2 ^ 31 ≤ z) (h2 : z ≤ 2 ^ 31 - 1) : s32 (wrap32 z) = z := by
  simp only [s32, wrap32, BitVec.toInt_ofInt]
  exact Int.bmod_eq_of_le (by omega) (by omega)

theorem s32_bounds (v : Word) : -2 ^ 31 ≤ s32 v ∧ s32 v ≤ 2 ^ 31 - 1 := by
  have h1 := BitVec.le_toInt v
  have h2 := BitVec.toInt_lt (x := v)
  simp only [s32]
  omega

@[simp] theorem wrap32_s32 (v : Word) : wrap32 (s32 v) = v := BitVec.ofInt_toInt

theorem s32_eq_zero_iff (v : Word) : s32 v = 0 ↔ v = 0 := by
  constructor
  · intro h
    rw [← wrap32_s32 v, h]
    rfl
  · rintro rfl
    rfl

theorem shl_eq (v : Word) (n : Nat) : shl v n = v <<< n := by
  apply BitVec.eq_of_toNat_eq
  have := wrap32_toNat ((u32 v : Int) * 2 ^ n)
  simp only [shl, u32] at *
  rw [BitVec.toNat_shiftLeft, Nat.shiftLeft_eq]
  zify
  simpa using this

theorem shrU_eq (v : Word) (n : Nat) : shrU v n = v >>> n := by
  apply BitVec.eq_of_toNat_eq
  rw [shrU, wrap32_natCast, BitVec.toNat_ofNat, BitVec.toNat_ushiftRight, Nat.shiftRight_eq_div_pow, u32]
  exact Nat.mod_eq_of_lt (lt_of_le_of_lt (Nat.div_le_self _ _) v.isLt)

theorem shrS_eq (v : Word) (n : Nat) : shrS v n = v.sshiftRight n := by
  have h : (s32 v).fdiv (2 ^ n) = v.toInt >>> n := by
    rw [Int.shiftRight_eq_div_pow, Int.fdiv_eq_ediv_of_nonneg _ (by positivity)]
    simp [s32]
  rw [shrS, h, BitVec.sshiftRight_eq, wrap32]

theorem sum_eq (a b : Word) : sum a b = a + b := by
  simp [sum, wrap32, s32, BitVec.ofInt_add]

theorem product_eq (a b : Word) : product a b = a * b := by
  simp [product, wrap32, s32, BitVec.ofInt_mul]

theorem shiftCount_lt (v : Word) : shiftCount v < 32 := Nat.mod_lt _ (by decide)

/-- The count is the low five bits of the count register (R170). -/
theorem shiftCount_eq (v : Word) : shiftCount v = (v.extractLsb' 0 5).toNat := by
  simp [shiftCount, u32, BitVec.extractLsb'_toNat]

end Sys2Proof.Machine
end

