-- ==== Sys2Proof/Laws/State.lean ====
section
/-! SUPPORT. What each update of the state does to each field, one lemma per field and update, and the laws of the
register file: a read after a write (R22, R23), `clear` (R25), the snapshot (R24). -/

namespace Sys2Proof.Machine

open Sys2Proof

variable (s : State)

@[simp] theorem State.setReg_rf (i : RegIdx) (v : Word) : (s.setReg i v).rf = s.rf.put i v := rfl
@[simp] theorem State.setReg_pc (i : RegIdx) (v : Word) : (s.setReg i v).pc = s.pc := rfl
@[simp] theorem State.setReg_prog (i : RegIdx) (v : Word) : (s.setReg i v).prog = s.prog := rfl
@[simp] theorem State.setReg_out (i : RegIdx) (v : Word) : (s.setReg i v).out = s.out := rfl
@[simp] theorem State.setReg_status (i : RegIdx) (v : Word) : (s.setReg i v).status = s.status := rfl
@[simp] theorem State.setReg_config (i : RegIdx) (v : Word) : (s.setReg i v).config = s.config := rfl
@[simp] theorem State.setReg_answers (i : RegIdx) (v : Word) : (s.setReg i v).answers = s.answers := rfl
@[simp] theorem State.setReg_host (i : RegIdx) (v : Word) : (s.setReg i v).host = s.host := rfl
@[simp] theorem State.setReg_replies (i : RegIdx) (v : Word) : (s.setReg i v).replies = s.replies := rfl

@[simp] theorem State.clearRegs_rf : (s.clearRegs).rf = RegFile.zero := rfl
@[simp] theorem State.clearRegs_pc : (s.clearRegs).pc = s.pc := rfl
@[simp] theorem State.clearRegs_prog : (s.clearRegs).prog = s.prog := rfl
@[simp] theorem State.clearRegs_out : (s.clearRegs).out = s.out := rfl
@[simp] theorem State.clearRegs_status : (s.clearRegs).status = s.status := rfl
@[simp] theorem State.clearRegs_config : (s.clearRegs).config = s.config := rfl
@[simp] theorem State.clearRegs_answers : (s.clearRegs).answers = s.answers := rfl
@[simp] theorem State.clearRegs_host : (s.clearRegs).host = s.host := rfl
@[simp] theorem State.clearRegs_replies : (s.clearRegs).replies = s.replies := rfl

@[simp] theorem State.emit_rf (recs : List OutRec) : (s.emit recs).rf = s.rf := rfl
@[simp] theorem State.emit_pc (recs : List OutRec) : (s.emit recs).pc = s.pc := rfl
@[simp] theorem State.emit_prog (recs : List OutRec) : (s.emit recs).prog = s.prog := rfl
@[simp] theorem State.emit_out (recs : List OutRec) : (s.emit recs).out = s.out ++ recs := rfl
@[simp] theorem State.emit_status (recs : List OutRec) : (s.emit recs).status = s.status := rfl
@[simp] theorem State.emit_config (recs : List OutRec) : (s.emit recs).config = s.config := rfl
@[simp] theorem State.emit_answers (recs : List OutRec) : (s.emit recs).answers = s.answers := rfl
@[simp] theorem State.emit_host (recs : List OutRec) : (s.emit recs).host = s.host := rfl
@[simp] theorem State.emit_replies (recs : List OutRec) : (s.emit recs).replies = s.replies := rfl

@[simp] theorem State.advance_rf : (s.advance).rf = s.rf := rfl
@[simp] theorem State.advance_pc : (s.advance).pc = s.pc + 1 := rfl
@[simp] theorem State.advance_prog : (s.advance).prog = s.prog := rfl
@[simp] theorem State.advance_out : (s.advance).out = s.out := rfl
@[simp] theorem State.advance_status : (s.advance).status = if s.pc + 1 = s.progLen then .done else s.status := rfl
@[simp] theorem State.advance_config : (s.advance).config = s.config := rfl
@[simp] theorem State.advance_answers : (s.advance).answers = s.answers := rfl
@[simp] theorem State.advance_host : (s.advance).host = s.host := rfl
@[simp] theorem State.advance_replies : (s.advance).replies = s.replies := rfl

@[simp] theorem State.reply_rf (r : Reply) : (s.reply r).rf = s.rf := rfl
@[simp] theorem State.reply_pc (r : Reply) : (s.reply r).pc = s.pc := rfl
@[simp] theorem State.reply_prog (r : Reply) : (s.reply r).prog = s.prog := rfl
@[simp] theorem State.reply_out (r : Reply) : (s.reply r).out = s.out := rfl
@[simp] theorem State.reply_status (r : Reply) : (s.reply r).status = s.status := rfl
@[simp] theorem State.reply_config (r : Reply) : (s.reply r).config = s.config := rfl
@[simp] theorem State.reply_answers (r : Reply) : (s.reply r).answers = s.answers := rfl
@[simp] theorem State.reply_host (r : Reply) : (s.reply r).host = s.host := rfl
@[simp] theorem State.reply_replies (r : Reply) : (s.reply r).replies = s.replies ++ [r] := rfl

@[simp] theorem State.placeAtFetch_rf (w : Word) : (s.placeAtFetch w).rf = s.rf := rfl
@[simp] theorem State.placeAtFetch_pc (w : Word) : (s.placeAtFetch w).pc = s.pc := rfl
@[simp] theorem State.placeAtFetch_prog (w : Word) : (s.placeAtFetch w).prog = some (placeWord s.words s.pc w) := rfl
@[simp] theorem State.placeAtFetch_out (w : Word) : (s.placeAtFetch w).out = s.out := rfl
@[simp] theorem State.placeAtFetch_status (w : Word) : (s.placeAtFetch w).status = .running := rfl
@[simp] theorem State.placeAtFetch_config (w : Word) : (s.placeAtFetch w).config = s.config := rfl
@[simp] theorem State.placeAtFetch_answers (w : Word) : (s.placeAtFetch w).answers = s.answers := rfl
@[simp] theorem State.placeAtFetch_host (w : Word) : (s.placeAtFetch w).host = s.host := rfl
@[simp] theorem State.placeAtFetch_replies (w : Word) : (s.placeAtFetch w).replies = s.replies := rfl

@[simp] theorem State.setStatus_rf (st : Status) : (s.setStatus st).rf = s.rf := rfl
@[simp] theorem State.setStatus_pc (st : Status) : (s.setStatus st).pc = s.pc := rfl
@[simp] theorem State.setStatus_prog (st : Status) : (s.setStatus st).prog = s.prog := rfl
@[simp] theorem State.setStatus_out (st : Status) : (s.setStatus st).out = s.out := rfl
@[simp] theorem State.setStatus_status (st : Status) : (s.setStatus st).status = st := rfl
@[simp] theorem State.setStatus_config (st : Status) : (s.setStatus st).config = s.config := rfl
@[simp] theorem State.setStatus_answers (st : Status) : (s.setStatus st).answers = s.answers := rfl
@[simp] theorem State.setStatus_host (st : Status) : (s.setStatus st).host = s.host := rfl
@[simp] theorem State.setStatus_replies (st : Status) : (s.setStatus st).replies = s.replies := rfl
@[simp] theorem State.setStatus_words (st : Status) : (s.setStatus st).words = s.words := rfl
@[simp] theorem State.setStatus_progLen (st : Status) : (s.setStatus st).progLen = s.progLen := rfl
@[simp] theorem State.setStatus_fetch (st : Status) : (s.setStatus st).fetch = s.fetch := rfl
@[simp] theorem State.setStatus_reg (st : Status) (r : RegIdx) : (s.setStatus st).reg r = s.reg r := rfl

@[simp] theorem State.answered_rf (rest : List Answer) : (s.answered rest).rf = s.rf := rfl
@[simp] theorem State.answered_pc (rest : List Answer) : (s.answered rest).pc = s.pc := rfl
@[simp] theorem State.answered_prog (rest : List Answer) : (s.answered rest).prog = s.prog := rfl
@[simp] theorem State.answered_out (rest : List Answer) : (s.answered rest).out = s.out := rfl
@[simp] theorem State.answered_status (rest : List Answer) : (s.answered rest).status = .running := rfl
@[simp] theorem State.answered_config (rest : List Answer) : (s.answered rest).config = s.config := rfl
@[simp] theorem State.answered_answers (rest : List Answer) : (s.answered rest).answers = rest := rfl
@[simp] theorem State.answered_host (rest : List Answer) : (s.answered rest).host = s.host := rfl
@[simp] theorem State.answered_replies (rest : List Answer) : (s.answered rest).replies = s.replies := rfl
@[simp] theorem State.answered_words (rest : List Answer) : (s.answered rest).words = s.words := rfl
@[simp] theorem State.answered_progLen (rest : List Answer) : (s.answered rest).progLen = s.progLen := rfl
@[simp] theorem State.answered_fetch (rest : List Answer) : (s.answered rest).fetch = s.fetch := rfl
@[simp] theorem State.answered_reg (rest : List Answer) (r : RegIdx) : (s.answered rest).reg r = s.reg r := rfl

@[simp] theorem State.setProg_rf (p : List Word) : (s.setProg p).rf = s.rf := rfl
@[simp] theorem State.setProg_pc (p : List Word) : (s.setProg p).pc = s.pc := rfl
@[simp] theorem State.setProg_prog (p : List Word) : (s.setProg p).prog = some p := rfl
@[simp] theorem State.setProg_out (p : List Word) : (s.setProg p).out = s.out := rfl
@[simp] theorem State.setProg_status (p : List Word) : (s.setProg p).status = s.status := rfl
@[simp] theorem State.setProg_config (p : List Word) : (s.setProg p).config = s.config := rfl
@[simp] theorem State.setProg_answers (p : List Word) : (s.setProg p).answers = s.answers := rfl
@[simp] theorem State.setProg_host (p : List Word) : (s.setProg p).host = s.host := rfl
@[simp] theorem State.setProg_replies (p : List Word) : (s.setProg p).replies = s.replies := rfl
@[simp] theorem State.setProg_words (p : List Word) : (s.setProg p).words = p := rfl
@[simp] theorem State.setProg_progLen (p : List Word) : (s.setProg p).progLen = p.length := rfl
@[simp] theorem State.setProg_reg (p : List Word) (r : RegIdx) : (s.setProg p).reg r = s.reg r := rfl

@[simp] theorem State.setHost_rf (rest : List HostCmd) : (s.setHost rest).rf = s.rf := rfl
@[simp] theorem State.setHost_pc (rest : List HostCmd) : (s.setHost rest).pc = s.pc := rfl
@[simp] theorem State.setHost_prog (rest : List HostCmd) : (s.setHost rest).prog = s.prog := rfl
@[simp] theorem State.setHost_out (rest : List HostCmd) : (s.setHost rest).out = s.out := rfl
@[simp] theorem State.setHost_status (rest : List HostCmd) : (s.setHost rest).status = s.status := rfl
@[simp] theorem State.setHost_config (rest : List HostCmd) : (s.setHost rest).config = s.config := rfl
@[simp] theorem State.setHost_answers (rest : List HostCmd) : (s.setHost rest).answers = s.answers := rfl
@[simp] theorem State.setHost_host (rest : List HostCmd) : (s.setHost rest).host = rest := rfl
@[simp] theorem State.setHost_replies (rest : List HostCmd) : (s.setHost rest).replies = s.replies := rfl
@[simp] theorem State.setHost_words (rest : List HostCmd) : (s.setHost rest).words = s.words := rfl
@[simp] theorem State.setHost_progLen (rest : List HostCmd) : (s.setHost rest).progLen = s.progLen := rfl
@[simp] theorem State.setHost_fetch (rest : List HostCmd) : (s.setHost rest).fetch = s.fetch := rfl
@[simp] theorem State.setHost_reg (rest : List HostCmd) (r : RegIdx) : (s.setHost rest).reg r = s.reg r := rfl

@[simp] theorem State.setReg_words (i : RegIdx) (v : Word) : (s.setReg i v).words = s.words := rfl
@[simp] theorem State.setReg_progLen (i : RegIdx) (v : Word) : (s.setReg i v).progLen = s.progLen := rfl
@[simp] theorem State.setReg_fetch (i : RegIdx) (v : Word) : (s.setReg i v).fetch = s.fetch := rfl
@[simp] theorem State.clearRegs_words : (s.clearRegs).words = s.words := rfl
@[simp] theorem State.clearRegs_progLen : (s.clearRegs).progLen = s.progLen := rfl
@[simp] theorem State.clearRegs_fetch : (s.clearRegs).fetch = s.fetch := rfl
@[simp] theorem State.emit_words (recs : List OutRec) : (s.emit recs).words = s.words := rfl
@[simp] theorem State.emit_progLen (recs : List OutRec) : (s.emit recs).progLen = s.progLen := rfl
@[simp] theorem State.emit_fetch (recs : List OutRec) : (s.emit recs).fetch = s.fetch := rfl
@[simp] theorem State.emit_reg (recs : List OutRec) (r : RegIdx) : (s.emit recs).reg r = s.reg r := rfl
@[simp] theorem State.advance_words : (s.advance).words = s.words := rfl
@[simp] theorem State.advance_progLen : (s.advance).progLen = s.progLen := rfl
@[simp] theorem State.advance_reg (r : RegIdx) : (s.advance).reg r = s.reg r := rfl
@[simp] theorem State.reply_words (r : Reply) : (s.reply r).words = s.words := rfl
@[simp] theorem State.reply_progLen (r : Reply) : (s.reply r).progLen = s.progLen := rfl
@[simp] theorem State.reply_fetch (r : Reply) : (s.reply r).fetch = s.fetch := rfl
@[simp] theorem State.reply_reg (r : Reply) (i : RegIdx) : (s.reply r).reg i = s.reg i := rfl
@[simp] theorem State.placeAtFetch_reg (w : Word) (r : RegIdx) : (s.placeAtFetch w).reg r = s.reg r := rfl

@[simp] theorem State.reg_mk (rf : RegFile) (pc prog out status config answers host replies) (i : RegIdx) :
    State.reg ⟨rf, pc, prog, out, status, config, answers, host, replies⟩ i = rf.get i := rfl

/-! ### The register file -/

@[simp] theorem RegFile.get_put_same (f : RegFile) (i : RegIdx) (v : Word) : (f.put i v).get i = v := by
  simp [RegFile.get, RegFile.put]

theorem RegFile.get_put_other (f : RegFile) {i j : RegIdx} (v : Word) (h : j ≠ i) : (f.put i v).get j = f.get j := by
  have h' : i.toNat ≠ j.toNat := fun e => h (BitVec.eq_of_toNat_eq e.symm)
  simp [RegFile.get, RegFile.put, h']

theorem RegFile.get_put (f : RegFile) (i j : RegIdx) (v : Word) :
    (f.put i v).get j = if j = i then v else f.get j := by
  by_cases h : j = i
  · subst h; simp
  · simp [h, RegFile.get_put_other]

@[simp] theorem RegFile.get_zero (i : RegIdx) : RegFile.zero.get i = 0 := by
  simp only [RegFile.get, RegFile.zero, List.getElem_replicate]

/-- Two register files with the same entries are equal. -/
theorem RegFile.ext_get {f g : RegFile} (h : ∀ i, f.get i = g.get i) : f = g := by
  obtain ⟨fc, fl⟩ := f
  obtain ⟨gc, gl⟩ := g
  congr 1
  refine List.ext_getElem (by omega) fun k hk _ => ?_
  have hlt : k < 2 ^ 9 := by omega
  have := h (BitVec.ofNat 9 k)
  simpa only [RegFile.get, BitVec.toNat_ofNat, Nat.mod_eq_of_lt hlt] using this

@[simp] theorem State.reg_setReg_same (i : RegIdx) (v : Word) : (s.setReg i v).reg i = v :=
  RegFile.get_put_same _ _ _

theorem State.reg_setReg_other {i j : RegIdx} (v : Word) (h : j ≠ i) : (s.setReg i v).reg j = s.reg j :=
  RegFile.get_put_other _ _ h

theorem State.reg_setReg (i j : RegIdx) (v : Word) : (s.setReg i v).reg j = if j = i then v else s.reg j :=
  RegFile.get_put _ _ _ _

@[simp] theorem State.reg_clearRegs (i : RegIdx) : s.clearRegs.reg i = 0 := RegFile.get_zero i

@[simp] theorem State.snapshot_length : s.snapshot.length = 512 := s.rf.len

/-- Entry `i` of the snapshot is register `i` (R24). -/
theorem State.snapshot_getElem (i : RegIdx) : s.snapshot[i.toNat]? = some (s.reg i) := by
  have : i.toNat < s.rf.cells.length := by rw [s.rf.len]; exact i.isLt
  simp [State.snapshot, State.reg, RegFile.get, List.getElem?_eq_getElem this]

/-! ### The program -/

theorem placeWord_getElem (ws : List Word) (k : Nat) (w : Word) : (placeWord ws k w)[k]? = some w := by
  induction k generalizing ws with
  | zero => cases ws <;> rfl
  | succ k ih => cases ws <;> simpa [placeWord] using ih _

/-- The word placed is the word the next fetch reads (R110). -/
@[simp] theorem State.placeAtFetch_fetch (w : Word) : (s.placeAtFetch w).fetch = some w :=
  placeWord_getElem _ _ _

theorem State.fetch_eq_none_iff : s.fetch = none ↔ s.progLen ≤ s.pc := by
  simp [State.fetch, State.progLen]

theorem State.pc_lt_of_fetch {w : Word} (h : s.fetch = some w) : s.pc < s.progLen :=
  (List.getElem?_eq_some_iff.mp h).1

end Sys2Proof.Machine
end

