-- ==== Sys2Proof/Laws/Ops.lean ====
section
/-! SUPPORT. What each shared operation answers, said once in the terms of Safety.lean. -/

namespace Sys2Proof.Machine

open Sys2Proof

theorem advanced_setReg (s : State) (d : RegIdx) (v : Word) : Advanced s (s.setReg d v).advance :=
  ⟨rfl, rfl, rfl, rfl, rfl, rfl, rfl⟩

theorem advanced_emit (s : State) (recs : List OutRec) : Advanced s (s.emit recs).advance :=
  ⟨rfl, rfl, rfl, rfl, rfl, rfl, rfl⟩

/-- Writing a result: one register, no output (R113). -/
theorem writeResult_wrote (d : RegIdx) (v : Word) (s : State) :
    ∃ t, writeResult d v s = .next t ∧ WroteOnly s t d v :=
  ⟨_, rfl, by simp, fun _ h => by simp [State.reg_setReg_other s v h], rfl, advanced_setReg s d v⟩

/-- Appending records: no register (R113). -/
theorem appendResult_appended (recs : List OutRec) (s : State) :
    ∃ t, appendResult recs s = .next t ∧ AppendedOnly s t recs :=
  ⟨_, rfl, fun _ => rfl, rfl, advanced_emit s recs⟩

/-- Taking a fault (R183). -/
theorem raiseFault_took (k : FaultKind) (info : Nat) (s : State) :
    ∃ t, raiseFault k info s = .next t ∧ TookFault s t k info := appendResult_appended _ s

theorem unaryResult_wrote (f : Word → Word) (src dst : RegIdx) (s : State) :
    ∃ t, unaryResult f src dst s = .next t ∧ WroteOnly s t dst (f (s.reg src)) := writeResult_wrote _ _ s

theorem binaryResult_wrote (f : Word → Word → Word) (a b dst : RegIdx) (s : State) :
    ∃ t, binaryResult f a b dst s = .next t ∧ WroteOnly s t dst (f (s.reg a) (s.reg b)) := writeResult_wrote _ _ s

/-- The three ends of Division and Modulo (R154, R155). -/
theorem divideResult_cases (f : Word → Word → Word) (a b dst : RegIdx) (s : State) :
    (divisorZero (s.reg b) ∧ divideResult f a b dst s = raiseFault .divisionByZero b.toNat s) ∨
    (¬ divisorZero (s.reg b) ∧ (quotientOverflows (s.reg a) (s.reg b) ∧ s.config.divOvf = .fault) ∧
      divideResult f a b dst s = raiseFault .divisionOverflow b.toNat s) ∨
    (¬ divisorZero (s.reg b) ∧ ¬ (quotientOverflows (s.reg a) (s.reg b) ∧ s.config.divOvf = .fault) ∧
      divideResult f a b dst s = binaryResult f a b dst s) := by
  by_cases h0 : divisorZero (s.reg b)
  · exact .inl ⟨h0, if_pos h0⟩
  · by_cases h1 : quotientOverflows (s.reg a) (s.reg b) ∧ s.config.divOvf = .fault
    · exact .inr (.inl ⟨h0, h1, by rw [divideResult, if_neg h0, if_pos h1]⟩)
    · exact .inr (.inr ⟨h0, h1, by rw [divideResult, if_neg h0, if_neg h1]⟩)

/-- The three ends of an answered prompt (R123). -/
theorem useAnswer_cases (p : Prompt) (r : Answer) (s : State) :
    (r = .absent ∧ useAnswer p r s = raiseFault .inputCancelled p.a.toNat s) ∨
    (∃ cs, r = .text cs ∧ parseInt s.config cs p.base = none ∧
      useAnswer p r s = raiseFault .invalidInput p.a.toNat s) ∨
    (∃ cs v, r = .text cs ∧ parseInt s.config cs p.base = some v ∧ useAnswer p r s = writeResult p.a v s) := by
  cases r with
  | absent => exact .inl ⟨rfl, rfl⟩
  | text cs =>
    cases h : parseInt s.config cs p.base with
    | none => exact .inr (.inl ⟨cs, rfl, h, by simp [useAnswer, h]⟩)
    | some v => exact .inr (.inr ⟨cs, v, rfl, h, by simp [useAnswer, h]⟩)

/-- An answered prompt ends in an advance, after a change of registers and OUT only. -/
theorem useAnswer_advances (p : Prompt) (r : Answer) (s : State) :
    ∃ u : State, useAnswer p r s = .next u.advance ∧ u.status = s.status ∧ u.pc = s.pc ∧ u.answers = s.answers ∧
      u.prog = s.prog ∧ u.config = s.config ∧ u.host = s.host ∧ u.replies = s.replies ∧
      ∃ recs, u.out = s.out ++ recs := by
  rcases useAnswer_cases p r s with ⟨_, h⟩ | ⟨_, _, _, h⟩ | ⟨_, v, _, _, h⟩
  · exact ⟨_, h, rfl, rfl, rfl, rfl, rfl, rfl, rfl, _, rfl⟩
  · exact ⟨_, h, rfl, rfl, rfl, rfl, rfl, rfl, rfl, _, rfl⟩
  · exact ⟨_, h, rfl, rfl, rfl, rfl, rfl, rfl, rfl, [], by simp⟩

/-- The shapes in which a handler ends: it writes a register, writes two (Swap), appends, asks, or waits (R113, R123). -/
inductive Ending (s : State) : State → Prop where
  | wrote (d : RegIdx) (v : Word) : Ending s (s.setReg d v).advance
  | swapped (a b : RegIdx) : Ending s ((s.setReg a (s.reg b)).setReg b (s.reg a)).advance
  | appended (recs : List OutRec) : Ending s (s.emit recs).advance
  | asked (p : Prompt) : Ending s (s.setStatus (.waitInput p))
  | waits (p : Prompt) : s.status = .waitInput p → s.answers = [] → Ending s s
  | answeredWrote (p : Prompt) (r : Answer) (rest : List Answer) (v : Word) : s.status = .waitInput p →
      s.answers = r :: rest → Ending s ((s.answered rest).setReg p.a v).advance
  | answeredFault (p : Prompt) (r : Answer) (rest : List Answer) (k : FaultKind) (n : Nat) :
      s.status = .waitInput p → s.answers = r :: rest → Ending s ((s.answered rest).emit [.error k n]).advance

theorem completeInput_ending (p : Prompt) (s : State) (hp : s.status = .waitInput p) :
    ∃ t, completeInput p s = .next t ∧ Ending s t := by
  cases ha : s.answers with
  | nil => exact ⟨s, by simp [completeInput, ha], .waits p hp ha⟩
  | cons r rest =>
    have hc : completeInput p s = useAnswer p r (s.answered rest) := by simp [completeInput, ha]
    rcases useAnswer_cases p r (s.answered rest) with ⟨_, h⟩ | ⟨_, _, _, h⟩ | ⟨_, v, _, _, h⟩
    · exact ⟨_, hc.trans h, .answeredFault p r rest _ _ hp ha⟩
    · exact ⟨_, hc.trans h, .answeredFault p r rest _ _ hp ha⟩
    · exact ⟨_, hc.trans h, .answeredWrote p r rest v hp ha⟩

end Sys2Proof.Machine
end

