-- ==== Sys2Proof/Laws/PerInstr.lean ====
section
/-! SUPPORT. Statements about every instruction as syntax, one lemma per constructor. Family OpcodeField: the opcode
field of the encoded word is the number OPMAP gives the operation (R76, R77). -/

namespace Sys2Proof.Laws

open Sys2Proof

/-- The encoded word's opcode field is OPMAP's number of the instruction's operation, whatever OPMAP is. -/
def OpcodeField.Statement (i : Instr) : Prop := ∀ o : OpMap, (decodeFields (encode o i)).opcode = o.code i.mnemonic

/-- The one reason, for every instruction. -/
theorem OpcodeField.of_encode (i : Instr) : OpcodeField.Statement i := fun _ => packFields_opcode _

theorem OpcodeField.printRegisters (base : Nat) : OpcodeField.Statement (.printRegisters base) := OpcodeField.of_encode _
theorem OpcodeField.printOperand (a : RegIdx) (base : Nat) : OpcodeField.Statement (.printOperand a base) := OpcodeField.of_encode _
theorem OpcodeField.inputOperand (a : RegIdx) (base : Nat) : OpcodeField.Statement (.inputOperand a base) := OpcodeField.of_encode _
theorem OpcodeField.bitwiseInversion (src dst : RegIdx) : OpcodeField.Statement (.bitwiseInversion src dst) := OpcodeField.of_encode _
theorem OpcodeField.maxPowerOfTwo (src dst : RegIdx) : OpcodeField.Statement (.maxPowerOfTwo src dst) := OpcodeField.of_encode _
theorem OpcodeField.disjunction (a b dst : RegIdx) : OpcodeField.Statement (.disjunction a b dst) := OpcodeField.of_encode _
theorem OpcodeField.conjunction (a b dst : RegIdx) : OpcodeField.Statement (.conjunction a b dst) := OpcodeField.of_encode _
theorem OpcodeField.xor (a b dst : RegIdx) : OpcodeField.Statement (.xor a b dst) := OpcodeField.of_encode _
theorem OpcodeField.implication (a b dst : RegIdx) : OpcodeField.Statement (.implication a b dst) := OpcodeField.of_encode _
theorem OpcodeField.coimplication (a b dst : RegIdx) : OpcodeField.Statement (.coimplication a b dst) := OpcodeField.of_encode _
theorem OpcodeField.equivalence (a b dst : RegIdx) : OpcodeField.Statement (.equivalence a b dst) := OpcodeField.of_encode _
theorem OpcodeField.pierceArrow (a b dst : RegIdx) : OpcodeField.Statement (.pierceArrow a b dst) := OpcodeField.of_encode _
theorem OpcodeField.shefferStroke (a b dst : RegIdx) : OpcodeField.Statement (.shefferStroke a b dst) := OpcodeField.of_encode _
theorem OpcodeField.addition (a b dst : RegIdx) : OpcodeField.Statement (.addition a b dst) := OpcodeField.of_encode _
theorem OpcodeField.subtraction (a b dst : RegIdx) : OpcodeField.Statement (.subtraction a b dst) := OpcodeField.of_encode _
theorem OpcodeField.multiplication (a b dst : RegIdx) : OpcodeField.Statement (.multiplication a b dst) := OpcodeField.of_encode _
theorem OpcodeField.division (a b dst : RegIdx) : OpcodeField.Statement (.division a b dst) := OpcodeField.of_encode _
theorem OpcodeField.modulo (a b dst : RegIdx) : OpcodeField.Statement (.modulo a b dst) := OpcodeField.of_encode _
theorem OpcodeField.swap (a b : RegIdx) : OpcodeField.Statement (.swap a b) := OpcodeField.of_encode _
theorem OpcodeField.copy (dst src : RegIdx) : OpcodeField.Statement (.copy dst src) := OpcodeField.of_encode _
theorem OpcodeField.setByte (reg idxReg valReg : RegIdx) : OpcodeField.Statement (.setByte reg idxReg valReg) := OpcodeField.of_encode _
theorem OpcodeField.shiftLeft (a shiftReg dst : RegIdx) : OpcodeField.Statement (.shiftLeft a shiftReg dst) := OpcodeField.of_encode _
theorem OpcodeField.shiftRight (a shiftReg dst : RegIdx) : OpcodeField.Statement (.shiftRight a shiftReg dst) := OpcodeField.of_encode _
theorem OpcodeField.rotateLeft (a shiftReg dst : RegIdx) : OpcodeField.Statement (.rotateLeft a shiftReg dst) := OpcodeField.of_encode _
theorem OpcodeField.rotateRight (a shiftReg dst : RegIdx) : OpcodeField.Statement (.rotateRight a shiftReg dst) := OpcodeField.of_encode _

end Sys2Proof.Laws
end

