-- ==== Sys2Proof/Laws/Step.lean ====
section
/-! SUPPORT. What an instruction and a step can do, said once: every handler answers a next state of one of the shapes
of `Ending`, and a step by status. -/

namespace Sys2Proof.Machine

open Sys2Proof

theorem ending_of_write {s : State} {r : Result} {d : RegIdx} {v : Word} (h : r = writeResult d v s) :
    ∃ t, r = .next t ∧ Ending s t := ⟨_, h, .wrote d v⟩

theorem ending_of_append {s : State} {r : Result} {recs : List OutRec} (h : r = appendResult recs s) :
    ∃ t, r = .next t ∧ Ending s t := ⟨_, h, .appended recs⟩

theorem divideResult_ending (f : Word → Word → Word) (a b dst : RegIdx) (s : State) :
    ∃ t, divideResult f a b dst s = .next t ∧ Ending s t := by
  rcases divideResult_cases f a b dst s with ⟨_, h⟩ | ⟨_, _, h⟩ | ⟨_, _, h⟩
  · exact ending_of_append h
  · exact ending_of_append h
  · exact ending_of_write h

theorem execInputOperand_ending (a : RegIdx) (base : Nat) (s : State) :
    ∃ t, execInputOperand a base s = .next t ∧ Ending s t := by
  have ask : ∃ t, (if s.config.inputBaseCheck ∧ ¬ baseLegal base then raiseFault .invalidBase base s
      else requestInput a base s) = .next t ∧ Ending s t := by
    split
    · exact ending_of_append rfl
    · exact ⟨_, rfl, .asked ⟨a, base⟩⟩
  unfold execInputOperand
  split
  next p hp => exact completeInput_ending p s hp
  all_goals exact ask

/-- Every instruction answers a next state, of one of the shapes of `Ending` (R113, R188). -/
theorem exec_ending (i : Instr) (s : State) : ∃ t, exec i s = .next t ∧ Ending s t := by
  cases i with
  | printRegisters base =>
    simp only [exec, execPrintRegisters]
    split <;> exact ending_of_append rfl
  | printOperand a base =>
    simp only [exec, execPrintOperand]
    split <;> exact ending_of_append rfl
  | inputOperand a base => exact execInputOperand_ending a base s
  | division a b dst => exact divideResult_ending _ a b dst s
  | modulo a b dst => exact divideResult_ending _ a b dst s
  | swap a b => exact ⟨_, rfl, .swapped a b⟩
  | setByte reg idxReg valReg =>
    simp only [exec, execSetByte]
    split
    · exact ending_of_append rfl
    · exact ending_of_write rfl
  | _ => exact ending_of_write rfl

/-- The inversion of `exec`: whatever it answers has one of the shapes of `Ending`. -/
theorem ending_of_exec {i : Instr} {s t : State} (h : exec i s = .next t) : Ending s t := by
  obtain ⟨t', h', e⟩ := exec_ending i s
  rw [h] at h'
  cases h'
  exact e

theorem step_running {s : State} (h : s.status = .running) : step s = runWord s := by simp [step, cycle, h]

theorem step_waiting {s : State} {p : Prompt} (h : s.status = .waitInput p) : step s = completeInput p s := by
  simp [step, cycle, h]

theorem step_idle {s : State} (h : s.status = .idle) : step s = hostTurn s := by simp [step, cycle, h]

theorem step_done {s : State} (h : s.status = .done) : step s = hostTurn s := by simp [step, cycle, h]

theorem runSteps_succ {s t : State} (k : Nat) (h : step s = .next t) : runSteps (k + 1) s = runSteps k t := by
  simp [runSteps, h]

/-- Steps compose. -/
theorem runSteps_add (k j : Nat) {s t : State} (h : runSteps k s = .next t) : runSteps (k + j) s = runSteps j t := by
  induction k generalizing s with
  | zero =>
    cases h
    rw [Nat.zero_add]
  | succ k ih =>
    rw [Nat.succ_add]
    simp only [runSteps] at h ⊢
    split at h
    next u hu => exact ih h
    · cases h
    · cases h

/-- RUNNING with a word to fetch: an instruction runs, or the word's opcode is unknown (R110, R111, R114). -/
theorem runWord_cases {s : State} {w : Word} (h : s.fetch = some w) :
    (∃ i, decodeWord s.config.opmap w = .ok i ∧ runWord s = exec i s) ∨
    (s.config.opmap.find (decodeFields w).opcode = none ∧
      runWord s = raiseFault .unknownOpcode (decodeFields w).opcode.toNat s) := by
  cases hf : s.config.opmap.find (decodeFields w).opcode with
  | some m => exact .inl ⟨_, decodeWord_ok hf, by simp [runWord, h, decodeWord_ok hf]⟩
  | none => exact .inr ⟨rfl, by simp [runWord, h, decodeWord, hf]⟩

/-- A step of a run in progress answers a next state of one of the shapes of `Ending`, or has no word to fetch. -/
theorem run_step_ending {s : State} (h : s.InRun) (hpc : s.status = .running → s.pc < s.progLen) :
    ∃ t, step s = .next t ∧ Ending s t := by
  rcases h with h | ⟨p, h⟩
  · obtain ⟨w, hw⟩ : ∃ w, s.fetch = some w := by
      cases hf : s.fetch with
      | some w => exact ⟨w, rfl⟩
      | none =>
        have := s.fetch_eq_none_iff.mp hf
        have := hpc h
        omega
    rw [step_running h]
    rcases runWord_cases hw with ⟨i, _, hi⟩ | ⟨_, hi⟩
    · rw [hi]
      exact exec_ending i s
    · exact ending_of_append hi
  · rw [step_waiting h]
    exact completeInput_ending p s h

end Sys2Proof.Machine
end

