-- ==== Sys2Proof/Laws/Text.lean ====
section
/-! SUPPORT. The parameter functions of R8 where they are the defaults. -/

namespace Sys2Proof.Machine

open Sys2Proof

theorem parseInt_standard {c : Config} (h : c.parse = .standard) (cs : List Char) (base : Nat) :
    parseInt c cs base = parseIntDefault cs base := by simp [parseInt, h]

theorem formatInt_standard {c : Config} (h : c.format = .standard) (v : Word) (base : Nat) :
    formatInt c v base = formatIntDefault v base := by simp [formatInt, h]

theorem render_standard {c : Config} (h : c.render = .standard) (r : OutRec) :
    render c r = renderDefault c r := by simp [render, h]

end Sys2Proof.Machine
end

