-- ==== Sys2Proof/Tests/Slice0.lean ====
section
/-! SUPPORT. The model's own tests: small facts whose expected values are the spec's own examples and tables
(`95_test_vectors.md` and the rules named), and one witness for each statement that has hypotheses. -/

namespace Sys2Proof.Tests

open Sys2Proof Sys2Proof.Machine

/-! ### Helpers -/

/-- The state an outcome goes on with. -/
def nextOf : Result → Option State
  | .next t => some t
  | .fault _ => none
  | .refused _ => none

/-- A run in progress at word 0 of `p`, with these registers preloaded (R212). -/
def runOf (p : List Word) (regs : List (RegIdx × Word)) : State :=
  regs.foldl (fun s r => s.setReg r.1 r.2) { State.reset with prog := some p, status := .running }

/-- Register `r`, OUT and `pc` after one step of the one-word program `w`. -/
def after (w : Word) (regs : List (RegIdx × Word)) (r : RegIdx) : Option (Word × List OutRec × Nat) :=
  (nextOf (step (runOf [w] regs))).map (fun t => (t.reg r, t.out, t.pc))

/-- A machine waiting for the answer to `InputOperand R1,<base>` (the word `w`), the answers given, `x[1] = 9`. -/
def waiting (w : Word) (base : Nat) (answers : List Answer) : State :=
  { runOf [w] [(1, 9)] with status := .waitInput ⟨1, base⟩, answers := answers }

/-- Register 1 and OUT after the answer to that prompt. -/
def answeredWith (w : Word) (base : Nat) (a : Answer) : Option (Word × List OutRec) :=
  (nextOf (step (waiting w base [a]))).map (fun t => (t.reg 1, t.out))

/-! ### Well-formedness: an ill-formed term for each check -/

theorem test_wf_base_fits : (Instr.printRegisters 511).wf = true ∧ (Instr.printOperand 0 511).wf = true ∧
    (Instr.inputOperand 0 511).wf = true := by decide

theorem test_wf_refuses_base_512 : (Instr.printRegisters 512).wf = false ∧ (Instr.printOperand 0 512).wf = false ∧
    (Instr.inputOperand 0 512).wf = false := by decide

theorem test_opmap_wf : OpMap.default.wf = true ∧ ({ OpMap.default with copy := 31 } : OpMap).wf = true := by decide

theorem test_opmap_refuses_a_shared_number : ({ OpMap.default with copy := 0 } : OpMap).wf = false := by decide

/-! ### Decoding: a word of every operation (R83, R104, R121 to R174 and `95_test_vectors.md` section 2) -/

theorem test_decode_io :
    decodeTableWord 32 0x00000140 = some (.printRegisters 10) ∧
    decodeTableWord 32 0x000400A1 = some (.printOperand 5 16) ∧
    decodeTableWord 32 0x00028062 = some (.inputOperand 3 10) := by decide

theorem test_decode_unary :
    decodeTableWord 32 0x04800083 = some (.bitwiseInversion 4 9) ∧
    decodeTableWord 32 0x01000024 = some (.maxPowerOfTwo 1 2) := by decide

theorem test_decode_bitwise :
    decodeTableWord 32 0x01808025 = some (.disjunction 1 2 3) ∧
    decodeTableWord 32 0x01808026 = some (.conjunction 1 2 3) ∧
    decodeTableWord 32 0x01808027 = some (.xor 1 2 3) ∧
    decodeTableWord 32 0x01808028 = some (.implication 1 2 3) ∧
    decodeTableWord 32 0x01808029 = some (.coimplication 1 2 3) ∧
    decodeTableWord 32 0x0180802A = some (.equivalence 1 2 3) ∧
    decodeTableWord 32 0x0180802B = some (.pierceArrow 1 2 3) ∧
    decodeTableWord 32 0x0180802C = some (.shefferStroke 1 2 3) := by decide

theorem test_decode_arith :
    decodeTableWord 32 0x0100400D = some (.addition 0 1 2) ∧
    decodeTableWord 32 0x0100400E = some (.subtraction 0 1 2) ∧
    decodeTableWord 32 0x0100400F = some (.multiplication 0 1 2) ∧
    decodeTableWord 32 0x01004010 = some (.division 0 1 2) ∧
    decodeTableWord 32 0x01004011 = some (.modulo 0 1 2) := by decide

theorem test_decode_move :
    decodeTableWord 32 0x00008032 = some (.swap 1 2) ∧
    decodeTableWord 32 0x00008033 = some (.copy 1 2) ∧
    decodeTableWord 32 0x01004014 = some (.setByte 0 1 2) := by decide

theorem test_decode_shift :
    decodeTableWord 32 0x01004015 = some (.shiftLeft 0 1 2) ∧
    decodeTableWord 32 0x01004016 = some (.shiftRight 0 1 2) ∧
    decodeTableWord 32 0x01004017 = some (.rotateLeft 0 1 2) ∧
    decodeTableWord 32 0x00804038 = some (.rotateRight 1 1 1) := by decide

/-- Bit by bit from R70: `ccccccccc bbbbbbbbb aaaaaaaaa ooooo` with c = 445, b = 182, a = 503, o = 15 (R83). -/
theorem test_decode_fields_bit_by_bit :
    decodeWord OpMap.default 0b11011110101011011011111011101111#32 = .ok (.multiplication 503 182 445) := by decide

theorem test_decode_rejects :
    decodeWord OpMap.default 0x00000019#32 = .error (.unknownOpcode 25) ∧
    decodeWord OpMap.default 0xFFFFFFFF#32 = .error (.unknownOpcode 31) ∧
    decodeBytes Config.default [0x0D, 0x40, 0x00] = .error .truncated := by decide

theorem test_encode_ports :
    encodePort 13 0 1 2 = .ok 0x0100400D#32 ∧ encodePort 31 511 511 511 = .ok 0xFFFFFFFF#32 ∧
    encodePort 32 0 0 0 = .error .encodingOutOfRange ∧ encodePort 0 0 0 512 = .error .encodingOutOfRange ∧
    encodePort 0 (-1) 0 0 = .error .encodingOutOfRange ∧ decodePort 0xDEADBEEF#32 = (15, 503, 182, 445) := by decide

/-! ### Input and output (`95_test_vectors.md` section 2.3) -/

theorem test_print_registers_dump :
    (nextOf (step (runOf [0x00000140] [(0, 5)]))).map (fun t => (t.out.length, t.out[0]?, t.out[1]?, t.out[512]?)) =
      some (513, some (.header 10), some (.regLine 0 5 10), some (.regLine 511 0 10)) := by decide +kernel

theorem test_print_registers_bad_base : after 0x000004A0 [] 0 = some (0, [.error .invalidBase 37], 1) := by decide

theorem test_print_operand : after 0x00090021 [(1, 35)] 1 = some (35, [.value 1 35 36], 1) := by decide

theorem test_print_operand_bad_base : after 0x00094021 [(1, 35)] 1 = some (35, [.error .invalidBase 37], 1) := by decide

theorem test_input_asks :
    (nextOf (step (runOf [0x00028022] [(1, 9)]))).map (fun t => (t.status, t.reg 1, t.pc)) =
      some (.waitInput ⟨1, 10⟩, 9, 0) := by decide

theorem test_input_bad_base_no_prompt : after 0x00004022 [(1, 9)] 1 = some (9, [.error .invalidBase 1], 1) := by decide

theorem test_input_parses :
    answeredWith 0x00040022 16 (.text ['F', 'f']) = some (0xFF, []) ∧
    answeredWith 0x00090022 36 (.text ['z', 'z']) = some (0x50F, []) ∧
    answeredWith 0x00008022 2 (.text ['1', '0', '2']) = some (9, [.error .invalidInput 1]) ∧
    answeredWith 0x00040022 16 .absent = some (9, [.error .inputCancelled 1]) := by decide

theorem test_parse_range :
    parseIntDefault "-2147483648".toList 10 = some 0x80000000#32 ∧ parseIntDefault "2147483648".toList 10 = none ∧
    parseIntDefault [] 10 = none := by decide +kernel

theorem test_format :
    formatIntDefault 0xFF#32 16 = ['F', 'F'] ∧ formatIntDefault 0xFFFFFFFF#32 2 = ['-', '1'] ∧
    formatIntDefault 0x80000000#32 10 = "-2147483648".toList ∧ formatIntDefault 35#32 36 = ['Z'] := by decide +kernel

/-- The default renderings of R122's example and of section 2.3 and programs P1 and P3 of `95_test_vectors.md`. -/
theorem test_default_render :
    render Config.default (.value 5 0xFF 16) = ['F', 'F'] ∧ render Config.default (.value 1 35 36) = ['Z'] ∧
    render Config.default (.value 7 0x0C 10) = ['1', '2'] ∧
    render Config.default (.value 5 0x7F80 16) = ['7', 'F', '8', '0'] := by decide +kernel

/-- R8, R124: FormatInt and Render are parameters, and the default Render uses whichever FormatInt is set. -/
theorem test_text_parameters :
    render { Config.default with format := .other } (.value 1 35 36) = Config.otherFormatInt 35 36 ∧
    render { Config.default with format := .other } (.regLine 1 35 36) =
      Config.regLineText 1 36 (Config.otherFormatInt 35 36) ∧
    render { Config.default with render := .other } (.header 10) = Config.otherRender (.header 10) := ⟨rfl, rfl, rfl⟩

/-! ### Unary (section 2.4) -/

theorem test_inversion : after 0x01800023 [(1, 0x12345678)] 3 = some (0xEDCBA987, [], 1) := by decide

theorem test_inversion_ignores_op2 : after 0x0481C083 [] 9 = some (0xFFFFFFFF, [], 1) := by decide

theorem test_max_power_of_two :
    after 0x01800024 [(1, 0x7FFFFFFF)] 3 = some (0x40000000, [], 1) ∧
    after 0x01800024 [(1, 0xFFFFFFFF), (3, 9)] 3 = some (0, [], 1) := by decide

/-! ### Bitwise (section 2.5) -/

theorem test_bitwise :
    [(0x01808025 : Word), 0x01808026, 0x01808027, 0x01808028, 0x01808029, 0x0180802A, 0x0180802B, 0x0180802C].map
      (fun w => (after w [(1, 0x0000FF0F), (2, 0x00F0F0FF)] 3).map (·.1)) =
    [(0x00F0FFFF : Word), 0x0000F00F, 0x00F00FF0, 0xFFFFF0FF, 0xFF0FFF0F, 0xFF0FF00F, 0xFF0F0000, 0xFFFF0FF0].map
      some := by decide

theorem test_xor_in_place : after 0x00804027 [(1, 0xDEADBEEF)] 1 = some (0, [], 1) := by decide

/-! ### Arithmetic (section 2.6) -/

theorem test_addition :
    after 0x0180802D [(1, 0x7FFFFFFF), (2, 1)] 3 = some (0x80000000, [], 1) ∧
    after 0x0080402D [(1, 0x80000000)] 1 = some (0, [], 1) := by decide

theorem test_subtraction : after 0x0180802E [(1, 0x80000000), (2, 0xFFFFFFFF)] 3 = some (0x80000001, [], 1) := by decide

theorem test_multiplication : after 0x0180802F [(1, 0xB505), (2, 0xB505)] 3 = some (0x80001219, [], 1) := by decide

theorem test_division :
    after 0x01808030 [(1, 0xFFFFFFF9), (2, 2)] 3 = some (0xFFFFFFFD, [], 1) ∧
    after 0x01808030 [(1, 0x80000000), (2, 0xFFFFFFFF)] 3 = some (0x80000000, [], 1) ∧
    after 0x01808030 [(3, 7)] 3 = some (7, [.error .divisionByZero 2], 1) := by decide

theorem test_modulo :
    after 0x01808031 [(1, 0xFFFFFFF9), (2, 0xFFFFFFFE)] 3 = some (0xFFFFFFFF, [], 1) ∧
    after 0x01808031 [(1, 0x80000000), (2, 0xFFFFFFFF), (3, 7)] 3 = some (0, [], 1) := by decide

theorem test_division_overflow_fault :
    (nextOf (step { runOf [0x01808030] [(1, 0x80000000), (2, 0xFFFFFFFF), (3, 7)] with
      config := { Config.default with divOvf := .fault } })).map (fun t => (t.reg 3, t.out)) =
      some (7, [.error .divisionOverflow 2]) := by decide

/-! ### Moves and byte insert (section 2.7) -/

theorem test_swap :
    (nextOf (step (runOf [0x00008032] [(1, 1), (2, 2)]))).map (fun t => (t.reg 1, t.reg 2)) = some (2, 1) := by decide

theorem test_copy : after 0x00008033 [(1, 9), (2, 0xDEADBEEF)] 1 = some (0xDEADBEEF, [], 1) := by decide

theorem test_set_byte :
    after 0x01808034 [(1, 0x12345678), (2, 3), (3, 0xFF)] 1 = some (0xFF345678, [], 1) ∧
    after 0x01004034 [(1, 1), (2, 2)] 1 = some (0x00000201, [], 1) := by decide

theorem test_set_byte_out_of_range :
    after 0x01808034 [(1, 0x12345678), (2, 4)] 1 = some (0x12345678, [.error .byteRange 1], 1) ∧
    after 0x01808034 [(1, 0x12345678), (3, 256)] 1 = some (0x12345678, [.error .byteRange 1], 1) := by decide

/-! ### Shifts and rotates (section 2.8) -/

theorem test_shift_left : after 0x01808035 [(1, 0x12345678), (2, 36)] 3 = some (0x23456780, [], 1) := by decide

theorem test_shift_right :
    after 0x01808036 [(1, 0x80000000), (2, 31)] 3 = some (0xFFFFFFFF, [], 1) ∧
    (nextOf (step { runOf [0x01808036] [(1, 0x80000000), (2, 31)] with
      config := { Config.default with shrArith := false } })).map (fun t => t.reg 3) = some 1 := by decide

theorem test_rotate_left :
    after 0x01808037 [(1, 0x12345678), (2, 0xFFFFFFFF)] 3 = some (0x091A2B3C, [], 1) ∧
    after 0x01808037 [(1, 1), (2, 32)] 3 = some (1, [], 1) := by decide

theorem test_rotate_right :
    after 0x01808038 [(1, 0x12345678), (2, 0xFFFFFFFC)] 3 = some (0x23456781, [], 1) ∧
    after 0x00804038 [(1, 0x12345678)] 1 = some (0x34567812, [], 1) := by decide

/-! ### Dispatch, ports, placing (sections 2.2 and 2.9) -/

theorem test_unknown_opcode : after 0xFFFFFFFF [] 0 = some (0, [.error .unknownOpcode 31], 1) := by decide

theorem test_last_word_ends_the_run :
    (nextOf (step (runOf [0x00000033] []))).map (·.status) = some .done ∧
    (nextOf (step (runOf [0x00000033, 0x00000033] []))).map (·.status) = some .running := by decide

theorem test_with_fetch_word :
    (nextOf (step (State.reset.withFetchWord 32 0x00800003))).map (fun t => (t.reg 1, t.pc, t.status)) =
      some (0xFFFFFFFF, 1, .done) := by decide

theorem test_get_set_range :
    (portSet 511 0xFFFFFFFF#32 State.reset).toOption.map (fun t => (t.reg 511, t.reg 510)) = some (0xFFFFFFFF, 0) ∧
    (portGet 512 State.reset).toOption = none ∧ (portGet (-1) State.reset).toOption = none := by decide +kernel

/-- The host loads, starts, and after the run collects (R213, R214); the program is S5 with its preload. -/
theorem test_host_start :
    (nextOf (step { State.reset with prog := some [], host := [.start] })).map (fun t => (t.status, t.pc)) =
      some (.done, 0) ∧
    (nextOf (step { State.reset with prog := some [0], host := [.start] })).map (·.status) = some .running := by decide

/-! ### Assembler (R104) -/

theorem test_assemble_lines :
    (assemble OpMap.default "Addition R0,R1,R2\n// Addition R0,R1,R2\r\nCopy R1".toList).toOption =
      some [0x0100400D, 0x00000033] ∧
    (assemble OpMap.default "PrintRegisters 100\n  BitwiseInversion r4 , R9".toList).toOption =
      some [0x00000C80, 0x04800083] := by decide +kernel

theorem test_assemble_fatal :
    assembleTokens OpMap.default (tokens "addition R0,R1,R2".toList) = .error .unknownOpcode ∧
    assembleTokens OpMap.default (tokens "Addition R0,R1,R512".toList) = .error .invalidRegister ∧
    assembleTokens OpMap.default (tokens "PrintOperand R5,R16".toList) = .error .operandParseFailure ∧
    assembleTokens OpMap.default (tokens "PrintRegisters -1".toList) = .error .encodingOutOfRange ∧
    assembleTokens OpMap.default (tokens "Copy R1,R2,R3".toList) = .error .operandParseFailure := by decide +kernel

/-! ### Witnesses: for each statement with hypotheses, a state and operands that meet them together -/

/-- `Addition R0,R1,R2` then `InputOperand R1,10`, in RUNNING, two answers coming. -/
def busy : State := { runOf [0x0100400D, 0x00028022] [(0, 5), (1, 7)] with answers := [.text ['4'], .absent] }

theorem busy_inv : busy.Inv := by
  refine ⟨by decide, ?_, fun _ => by decide, ?_⟩
  · intro m h
    cases h
  · intro p h
    cases h

theorem waiting_inv (answers : List Answer) : (waiting 0x00028022 10 answers).Inv := by
  refine ⟨(by decide : Config.default.wf = true), ?_, ?_, ?_⟩
  · intro m h
    cases h
  · intro h
    cases h
  · intro p h
    cases h
    exact ⟨⟨0x00028022, rfl, (by decide : decodeWord OpMap.default 0x00028022#32 = .ok (.inputOperand 1 10))⟩,
      fun _ => (by decide : baseLegal 10)⟩

theorem witness_EveryStepKeepsInvariant : ∃ s t : State, s.Inv ∧ step s = .next t := ⟨busy, _, busy_inv, rfl⟩

theorem witness_RunStepAnswersAndFrames :
    (∃ s : State, s.Inv ∧ s.InRun ∧ s.status = .running) ∧ ∃ (s : State) (p : Prompt), s.Inv ∧ s.InRun ∧
      s.status = .waitInput p :=
  ⟨⟨busy, busy_inv, .inl rfl, rfl⟩, ⟨_, _, waiting_inv [], .inr ⟨_, rfl⟩, rfl⟩⟩

theorem witness_RunEndsWhenPromptsAnswered :
    busy.Inv ∧ busy.status = .running ∧ busy.progLen - busy.pc ≤ busy.answers.length := ⟨busy_inv, rfl, by decide⟩

theorem witness_DecodeEncodeRoundTrip :
    OpMap.default.wf = true ∧ (Instr.printRegisters 511).wf = true ∧ ({ OpMap.default with copy := 31 } : OpMap).wf = true := by
  decide

theorem witness_CodecIsBijection :
    ((0 : Int) ≤ 0 ∧ (0 : Int) ≤ 31) ∧ ((0 : Int) ≤ 31 ∧ (31 : Int) ≤ 31) ∧ ((0 : Int) ≤ 511 ∧ (511 : Int) ≤ 511) := by
  decide

theorem witness_UnusedFieldsIgnored :
    (OpMap.default.find 0 = some .printRegisters ∧ Mnemonic.printRegisters.format = .b) ∧
    (OpMap.default.find 1 = some .printOperand ∧ Mnemonic.printOperand.format = .rb) ∧
    (OpMap.default.find 18 = some .swap ∧ Mnemonic.swap.format = .rr) ∧
    (OpMap.default.find 3 = some .bitwiseInversion ∧ Mnemonic.bitwiseInversion.format = .rNoneR) := by decide

theorem witness_StepRunsDecodedInstruction :
    busy.status = .running ∧ busy.fetch = some 0x0100400D#32 ∧
      decodeWord busy.config.opmap 0x0100400D#32 = .ok (.addition 0 1 2) := ⟨rfl, rfl, by decide⟩

theorem witness_WaitingStepRunsItsInputOperand :
    (waiting 0x00028022 10 []).Inv ∧ (waiting 0x00028022 10 []).status = .waitInput ⟨1, 10⟩ := ⟨waiting_inv [], rfl⟩

theorem witness_UnansweredPromptNeverEnds :
    (waiting 0x00028022 10 []).status = .waitInput ⟨1, 10⟩ ∧ (waiting 0x00028022 10 []).answers = [] := ⟨rfl, rfl⟩

theorem witness_UnknownOpcodeTakesFault :
    (runOf [0x19] []).status = .running ∧ (runOf [0x19] []).fetch = some 0x19#32 ∧
      ∀ m, (runOf [0x19] []).config.opmap.code m ≠ (0x19#32).extractLsb' 0 5 :=
  ⟨rfl, rfl, fun m => by cases m <;> decide⟩

theorem witness_EveryHandlerAdvances :
    (busy.status = .running ∧ busy.pc < busy.progLen) ∧
    (waiting 0x00028022 10 [.absent]).status = .waitInput ⟨1, 10⟩ ∧ (waiting 0x00028022 10 [.absent]).answers ≠ [] :=
  ⟨⟨rfl, by decide⟩, rfl, by decide⟩

/-- Division of 5 by 0, and a cancelled prompt. -/
theorem witness_FaultingInstructionOnlyRecords :
    (∃ t, exec (.division 0 3 2) busy = .next t ∧ OutRec.error .divisionByZero 3 ∈ t.out.drop busy.out.length) ∧
    ∃ t, exec (.inputOperand 1 10) (waiting 0x00028022 10 [.absent]) = .next t ∧
      OutRec.error .inputCancelled 1 ∈ t.out.drop (waiting 0x00028022 10 [.absent]).out.length :=
  ⟨⟨_, rfl, by decide⟩, ⟨_, rfl, by decide⟩⟩

theorem witness_FaultsComeFromTheirCauses_running :
    (∀ p, busy.status = .waitInput p → Instr.printRegisters 37 = .inputOperand p.a p.base) ∧
    (∃ t, exec (.printRegisters 37) busy = .next t ∧ OutRec.error .invalidBase 37 ∈ t.out.drop busy.out.length) ∧
    (∃ t, exec (.modulo 0 3 2) busy = .next t ∧ OutRec.error .divisionByZero 3 ∈ t.out.drop busy.out.length) ∧
    ∃ t, exec (.setByte 4 0 1) busy = .next t ∧ OutRec.error .byteRange 4 ∈ t.out.drop busy.out.length :=
  ⟨(fun _ h => by cases h), ⟨_, rfl, by decide⟩, ⟨_, rfl, by decide⟩, ⟨_, rfl, by decide⟩⟩

theorem witness_FaultsComeFromTheirCauses_waiting :
    (∀ p, (waiting 0x00028022 10 [.text ['x']]).status = .waitInput p → Instr.inputOperand 1 10 = .inputOperand p.a p.base) ∧
    ∃ t, exec (.inputOperand 1 10) (waiting 0x00028022 10 [.text ['x']]) = .next t ∧
      OutRec.error .invalidInput 1 ∈ t.out.drop (waiting 0x00028022 10 [.text ['x']]).out.length :=
  ⟨(fun _ h => by cases h; rfl), ⟨_, rfl, by decide⟩⟩

theorem witness_InputOperandAsks : busy.status = .running ∧ ¬ (2 ≤ 37 ∧ 37 ≤ 36) ∧ (2 ≤ 36 ∧ 36 ≤ 36) := ⟨rfl, by decide⟩

theorem witness_InputOperandCompletes :
    ∀ r : Answer, (waiting 0x00028022 10 [r]).status = .waitInput ⟨1, 10⟩ ∧ (waiting 0x00028022 10 [r]).answers = [r] :=
  fun _ => ⟨rfl, rfl⟩

theorem witness_QuotientAndRemainderRebuild : busy.reg 1 ≠ 0 ∧ busy.config.divOvf = .wrap := by decide

theorem witness_BitwiseTruthTable : (0 : Nat) < 32 ∧ (31 : Nat) < 32 := by decide

theorem witness_StartBeginsAtWordZero :
    ∀ p : List Word, ({ State.reset with prog := some p } : State).status = .idle ∧
      ({ State.reset with prog := some p } : State).prog = some p := fun _ => ⟨rfl, rfl⟩

theorem witness_CollectDeliversOutput :
    ({ State.reset with status := .done } : State).status = .done ∧ State.reset.status = .idle ∧
      State.reset.prog = none := ⟨rfl, rfl, rfl⟩

theorem witness_HostActsOnlyBetweenRuns :
    State.reset.status = .idle ∧ State.reset.host = [] ∧
    ({ State.reset with host := [.all] } : State).host = [.all] ∧ busy.InRun ∧ ∃ t, step busy = .next t :=
  ⟨rfl, rfl, rfl, .inl rfl, _, rfl⟩

theorem witness_AssembledWordsAreInstructions :
    OpMap.default.wf = true ∧ (assemble OpMap.default "Copy R1".toList) = .ok [0x00000033] := by decide +kernel

theorem witness_OneWordPerInstructionLine :
    (assemble OpMap.default "Copy R1\n\n// x\nAddition R0,R1,R2".toList) = .ok [0x00000033, 0x0100400D] := by decide +kernel

theorem witness_FirstFailingLineIsFatal :
    assembleLines OpMap.default ["Addition R0,R1,R2".toList] = .ok [0x0100400D] ∧
    isInstructionLine "Bogus R1".toList = true ∧
    assembleTokens OpMap.default (tokens (trim "Bogus R1".toList)) = .error .unknownOpcode := by decide +kernel

theorem witness_ParseReadsBackFormat :
    Config.default.format = .standard ∧ Config.default.parse = .standard ∧
    parseInt Config.default (formatInt Config.default 0x80000000#32 2) 2 = some 0x80000000#32 ∧
    parseInt Config.default (formatInt Config.default 0x7FFFFFFF#32 36) 36 = some 0x7FFFFFFF#32 := by decide +kernel

end Sys2Proof.Tests
end

/-! PROOFS. The host's ports `get`, `set`, `clear` and `start` (`10_state.md`): O49 to O52. -/

namespace Sys2Proof.Machine

open Sys2Proof

/-! ### The index range of the ports

The integers the ports accept are exactly the register indices, so a port fact about an integer in range is read as one
about a `RegIdx`. -/

theorem portIndex_inRange_iff (index : Int) : (0 ≤ index ∧ index ≤ 511) ↔ ∃ i : RegIdx, index = i.toNat := by
  constructor
  · rintro ⟨h0, h511⟩
    refine ⟨BitVec.ofNat 9 index.toNat, ?_⟩
    rw [BitVec.toNat_ofNat, Nat.mod_eq_of_lt (by omega)]
    omega
  · rintro ⟨i, rfl⟩
    have hi : i.toNat < 512 := i.isLt
    omega

theorem ofInt_regIdx_toNat (i : RegIdx) : BitVec.ofInt 9 (i.toNat : Int) = i := by simp

/-! ### `get` and `set` at a register index and outside the range (R22, R23) -/

@[simp] theorem portGet_regIdx (i : RegIdx) (s : State) : portGet i.toNat s = .ok (s.reg i) := by
  rw [portGet, if_pos ((portIndex_inRange_iff _).mpr ⟨i, rfl⟩), ofInt_regIdx_toNat]

@[simp] theorem portSet_regIdx (i : RegIdx) (v : Word) (s : State) : portSet i.toNat v s = .ok (s.setReg i v) := by
  rw [portSet, if_pos ((portIndex_inRange_iff _).mpr ⟨i, rfl⟩), ofInt_regIdx_toNat]

theorem portGet_outOfRange {index : Int} (h : ¬ (0 ≤ index ∧ index ≤ 511)) (s : State) :
    portGet index s = .error .indexOutOfRange := if_neg h

theorem portSet_outOfRange {index : Int} (h : ¬ (0 ≤ index ∧ index ≤ 511)) (v : Word) (s : State) :
    portSet index v s = .error .indexOutOfRange := if_neg h

/-- After a write to register `i`, `get` at every other integer, in range or not, answers as before. -/
theorem portGet_setReg_other (i : RegIdx) (v : Word) (s : State) {j : Int} (hj : j ≠ i.toNat) :
    portGet j (s.setReg i v) = portGet j s := by
  by_cases hr : 0 ≤ j ∧ j ≤ 511
  · obtain ⟨k, rfl⟩ := (portIndex_inRange_iff j).mp hr
    have hk : k ≠ i := fun e => hj (by rw [e])
    rw [portGet_regIdx, portGet_regIdx, State.reg_setReg_other s v hk]
  · rw [portGet_outOfRange hr, portGet_outOfRange hr]

/-! ### What an update keeps besides the register file -/

theorem State.setReg_onlyRf (i : RegIdx) (v : Word) (s : State) : { s.setReg i v with rf := s.rf } = s := rfl

theorem State.clearRegs_onlyRf (s : State) : { s.clearRegs with rf := s.rf } = s := rfl

theorem State.snapshot_clearRegs (s : State) : s.clearRegs.snapshot = List.replicate 512 0 := rfl

/-! ### `start` (R35) -/

theorem portStart_idle_loaded {s : State} {p : List Word} (hs : s.status = .idle) (hp : s.prog = some p) :
    portStart s = .next { s with pc := 0, out := [], status := if 0 < p.length then .running else .done } := by
  simp only [portStart, hs, hp]

/-! ### The obligations -/

/-- Settles O50: `index` is some register index `i`, so `set` is `setReg i` and the register laws apply. -/
theorem setOverwritesOneSlot : Obligations.SetOverwritesOneSlot := by
  intro s index v
  refine ⟨fun i => portSet_regIdx i v s, ?_⟩
  split
  next hr =>
    obtain ⟨i, rfl⟩ := (portIndex_inRange_iff index).mp hr
    refine ⟨s.setReg i v, portSet_regIdx i v s, ?_, fun j hj => portGet_setReg_other i v s hj, s.setReg_onlyRf i v⟩
    rw [portGet_regIdx, State.reg_setReg_same]
  next hr => exact portSet_outOfRange hr v s

/-- Settles O49: `index` is some register index `i`, and entry `i` of the snapshot is register `i`. -/
theorem getReadsTheSnapshot : Obligations.GetReadsTheSnapshot := by
  intro s index
  refine ⟨s.snapshot_length, fun i => portGet_regIdx i s, ?_⟩
  split
  next hr =>
    obtain ⟨i, rfl⟩ := (portIndex_inRange_iff index).mp hr
    exact ⟨s.reg i, portGet_regIdx i s, s.snapshot_getElem i⟩
  next hr => exact portGet_outOfRange hr s

/-- Settles O51: `clear` is `clearRegs`, which replaces the register file by 512 zeros. -/
theorem clearZeroesEverySlot : Obligations.ClearZeroesEverySlot :=
  fun s => ⟨s.clearRegs, rfl, s.snapshot_clearRegs, s.clearRegs_onlyRf⟩

/-- Settles O52: the run begins RUNNING or DONE as the program has a word or none. -/
theorem startBeginsAtWordZero : Obligations.StartBeginsAtWordZero := by
  intro s p hs hp
  refine ⟨_, portStart_idle_loaded hs hp, rfl, rfl, ?_, fun i => State.reg_mk .., ?_, rfl⟩
  · cases p with
    | nil => rfl
    | cons w ws => rfl
  · exact ⟨rfl, rfl, rfl, rfl⟩

end Sys2Proof.Machine

/-! PROOFS. Placing the fields of a word and selecting the operation (`30_encoding.md`): O8 and O9. -/

namespace Sys2Proof

/-! ### The `encode` port (R71, R72) -/

/-- An integer that a field of `n` bits admits is the field's value. -/
theorem toNat_ofInt_of_inField {n : Nat} {x : Int} (h0 : 0 ≤ x) (hx : x < 2 ^ n) :
    ((BitVec.ofInt n x).toNat : Int) = x := by
  have hmod : x % ((2 ^ n : Nat) : Int) = x := Int.emod_eq_of_lt h0 (by exact_mod_cast hx)
  rw [BitVec.toNat_ofInt, hmod, Int.toNat_of_nonneg h0]

theorem encodePort_inRange {o a b c : Int}
    (h : (0 ≤ o ∧ o ≤ 31) ∧ (0 ≤ a ∧ a ≤ 511) ∧ (0 ≤ b ∧ b ≤ 511) ∧ (0 ≤ c ∧ c ≤ 511)) :
    encodePort o a b c =
      .ok (packFields ⟨BitVec.ofInt 5 o, BitVec.ofInt 9 a, BitVec.ofInt 9 b, BitVec.ofInt 9 c⟩) := if_pos h

theorem encodePort_outOfRange {o a b c : Int}
    (h : ¬ ((0 ≤ o ∧ o ≤ 31) ∧ (0 ≤ a ∧ a ≤ 511) ∧ (0 ≤ b ∧ b ≤ 511) ∧ (0 ≤ c ∧ c ≤ 511))) :
    encodePort o a b c = .error .encodingOutOfRange := if_neg h

/-! ### Decoding an opcode that OPMAP does not number (R78) -/

theorem decodeWord_unknown {o : OpMap} {w : Word} (h : o.find (decodeFields w).opcode = none) :
    decodeWord o w = .error (.unknownOpcode (decodeFields w).opcode) := by simp [decodeWord, h]

/-! ### The obligations -/

/-- Settles O9: the opcode field selects either an operation, whose instructions are well-formed whatever the operand
fields hold, or none. -/
theorem opcodeFieldAloneSelects : Obligations.OpcodeFieldAloneSelects := by
  intro o w
  cases hf : o.find (decodeFields w).opcode with
  | some m =>
    have hcode : o.code (instrOfFields m (decodeFields w)).mnemonic = (decodeFields w).opcode := by
      rw [instrOfFields_mnemonic, OpMap.code_of_find hf]
    exact .inl ⟨_, decodeWord_ok hf, instrOfFields_wf m _, hcode⟩
  | none => exact .inr ⟨decodeWord_unknown hf, OpMap.find_eq_none_iff.mp hf⟩

/-- Settles O8: in range, each placed field holds its integer; out of range, the port's check fails. -/
theorem encodePlacesFieldsOrFails : Obligations.EncodePlacesFieldsOrFails := by
  intro o a b c
  split
  next h =>
    refine ⟨_, encodePort_inRange h, ?_⟩
    obtain ⟨⟨ho, ho'⟩, ⟨ha, ha'⟩, ⟨hb, hb'⟩, hc, hc'⟩ := h
    rw [packFields_toNat]
    push_cast
    rw [toNat_ofInt_of_inField ho (by omega), toNat_ofInt_of_inField ha (by omega),
      toNat_ofInt_of_inField hb (by omega), toNat_ofInt_of_inField hc (by omega)]
  next h => exact encodePort_outOfRange h

end Sys2Proof

/-! PROOFS. Dispatching a word whose opcode names no operation (`40_dispatch.md`): O15. -/

namespace Sys2Proof.Machine

open Sys2Proof

theorem runWord_unknownOpcode {s : State} {w : Word} (hw : s.fetch = some w)
    (h : s.config.opmap.find (decodeFields w).opcode = none) :
    runWord s = raiseFault .unknownOpcode (decodeFields w).opcode.toNat s := by
  simp only [runWord, hw, decodeWord_unknown h]

/-- Settles O15: no operation is found for the opcode field, so the step is `raiseFault`, whose effect is known. -/
theorem unknownOpcodeTakesFault : Obligations.UnknownOpcodeTakesFault := by
  intro s w hrun hw hcode
  have hfind : s.config.opmap.find (decodeFields w).opcode = none := OpMap.find_eq_none_iff.mpr hcode
  rw [step_running hrun, runWord_unknownOpcode hw hfind]
  exact raiseFault_took .unknownOpcode (decodeFields w).opcode.toNat s

end Sys2Proof.Machine

/-! PROOFS. PrintOperand (`41_io.md`, R122): O22. -/

namespace Sys2Proof.Machine

open Sys2Proof

/-! ### The two ends of PrintOperand, by its base (R120, R122) -/

theorem exec_printOperand_legal {base : Nat} (h : baseLegal base) (a : RegIdx) (s : State) :
    exec (.printOperand a base) s = appendResult [.value a (s.reg a) base] s := if_pos h

theorem exec_printOperand_illegal {base : Nat} (h : ¬ baseLegal base) (a : RegIdx) (s : State) :
    exec (.printOperand a base) s = raiseFault .invalidBase base s := if_neg h

/-- Settles O22: by the legality of the base, the instruction is `appendResult` of the one value record or
`raiseFault`, whose effects are known. -/
theorem printOperandAppends : Obligations.PrintOperandAppends := by
  intro a base s
  split
  next h =>
    rw [exec_printOperand_legal h]
    exact appendResult_appended [.value a (s.reg a) base] s
  next h =>
    rw [exec_printOperand_illegal h]
    exact raiseFault_took .invalidBase base s

end Sys2Proof.Machine

/-! PROOFS. The unary register instructions (`42_unary.md`): O25 and O26. -/

namespace Sys2Proof.Machine

open Sys2Proof

/-! ### BitwiseInversion (R130) -/

theorem exec_bitwiseInversion_wrote (src dst : RegIdx) (s : State) :
    ∃ t, exec (.bitwiseInversion src dst) s = .next t ∧ WroteOnly s t dst (~~~(s.reg src)) :=
  unaryResult_wrote inversion src dst s

/-- Settles O25: the second inversion reads the register the first one wrote, and complementing is an involution. -/
theorem bitwiseInversionComplements : Obligations.BitwiseInversionComplements := by
  intro src dst s
  obtain ⟨t, ht, hwrote⟩ := exec_bitwiseInversion_wrote src dst s
  obtain ⟨u, hu, hback, -⟩ := exec_bitwiseInversion_wrote dst dst t
  have hdst : t.reg dst = ~~~(s.reg src) := hwrote.1
  exact ⟨t, ht, hwrote, u, hu, by rw [hback, hdst, BitVec.not_not]⟩

/-! ### MaxPowerOfTwo (R131) -/

theorem exec_maxPowerOfTwo_wrote (src dst : RegIdx) (s : State) :
    ∃ t, exec (.maxPowerOfTwo src dst) s = .next t ∧ WroteOnly s t dst (maxPow2 (s.reg src)) :=
  unaryResult_wrote maxPow2 src dst s

/-- A positive integer lies between two consecutive powers of two, whose exponent is its binary logarithm. -/
theorem two_pow_log2_bounds {z : Int} (h : 0 < z) : 2 ^ z.toNat.log2 ≤ z ∧ z < 2 ^ (z.toNat.log2 + 1) := by
  lift z to Nat using h.le
  have hz : z ≠ 0 := by omega
  exact ⟨mod_cast Nat.log2_self_le hz, mod_cast Nat.lt_log2_self⟩

/-- A positive signed value is below 2^31, so its binary logarithm is at most 30. -/
theorem log2_s32_le {v : Word} (h : 0 < s32 v) : (s32 v).toNat.log2 ≤ 30 := by
  have hv := s32_bounds v
  have hlt : (s32 v).toNat.log2 < 31 := (Nat.log2_lt (by omega)).mpr (by omega)
  omega

/-- For a positive value the power of two fits the signed range, so narrowing keeps it. -/
theorem s32_maxPow2_of_pos {v : Word} (h : 0 < s32 v) : s32 (maxPow2 v) = 2 ^ (s32 v).toNat.log2 := by
  have hle : (2 : Int) ^ (s32 v).toNat.log2 ≤ 2 ^ 31 - 1 :=
    (two_pow_log2_bounds h).1.trans (s32_bounds v).2
  have hpos : (0 : Int) < 2 ^ (s32 v).toNat.log2 := by positivity
  rw [maxPow2, if_pos h]
  exact s32_wrap32 (by omega) hle

theorem maxPow2_of_not_pos {v : Word} (h : ¬ 0 < s32 v) : maxPow2 v = 0 := if_neg h

/-- Settles O26: the destination gets `maxPow2` of the source, whose exponent for a positive value is the binary
logarithm. -/
theorem maxPowerOfTwoIsLargest : Obligations.MaxPowerOfTwoIsLargest := by
  intro src dst s
  obtain ⟨t, ht, hwrote⟩ := exec_maxPowerOfTwo_wrote src dst s
  refine ⟨t, maxPow2 (s.reg src), ht, hwrote, ?_⟩
  split
  next h =>
    obtain ⟨hle, hlt⟩ := two_pow_log2_bounds h
    exact ⟨(s32 (s.reg src)).toNat.log2, log2_s32_le h, hle, hlt, s32_maxPow2_of_pos h⟩
  next h => exact maxPow2_of_not_pos h

end Sys2Proof.Machine

/-! PROOFS. The binary bitwise instructions with the spec's own formulas (`43_bitwise.md`): O28 to O32. -/

namespace Sys2Proof.Machine

open Sys2Proof

/-! ### The word operation each instruction applies (R139 to R143) -/

theorem exec_implication (a b dst : RegIdx) (s : State) :
    exec (.implication a b dst) s = binaryResult implies a b dst s := rfl

theorem exec_coimplication (a b dst : RegIdx) (s : State) :
    exec (.coimplication a b dst) s = binaryResult coimplies a b dst s := rfl

theorem exec_equivalence (a b dst : RegIdx) (s : State) :
    exec (.equivalence a b dst) s = binaryResult equiv a b dst s := rfl

theorem exec_pierceArrow (a b dst : RegIdx) (s : State) :
    exec (.pierceArrow a b dst) s = binaryResult nor a b dst s := rfl

theorem exec_shefferStroke (a b dst : RegIdx) (s : State) :
    exec (.shefferStroke a b dst) s = binaryResult nand a b dst s := rfl

/-! ### The symmetric operations -/

theorem equiv_comm (x y : Word) : equiv x y = equiv y x := by
  rw [equiv, equiv, BitVec.and_comm (~~~x), BitVec.and_comm x]

theorem nor_comm (x y : Word) : nor x y = nor y x := congrArg (~~~·) (BitVec.or_comm x y)

theorem nand_comm (x y : Word) : nand x y = nand y x := congrArg (~~~·) (BitVec.and_comm x y)

/-- With a symmetric operation, exchanging the two sources changes nothing. -/
theorem binaryResult_comm {f : Word → Word → Word} (hf : ∀ x y, f x y = f y x) (a b dst : RegIdx) (s : State) :
    binaryResult f b a dst s = binaryResult f a b dst s := by
  simp only [binaryResult, hf (s.reg b)]

/-- A symmetric operation writes its result and answers the same state for either order of the sources. -/
theorem binaryResult_wrote_symm {f : Word → Word → Word} (hf : ∀ x y, f x y = f y x) (a b dst : RegIdx) (s : State) :
    ∃ t, binaryResult f a b dst s = .next t ∧ WroteOnly s t dst (f (s.reg a) (s.reg b)) ∧
      binaryResult f b a dst s = .next t := by
  obtain ⟨t, ht, hwrote⟩ := binaryResult_wrote f a b dst s
  exact ⟨t, ht, hwrote, (binaryResult_comm hf a b dst s).trans ht⟩

/-! ### What the five instructions do, from every state -/

/-- Settles O28: the instruction is `binaryResult` of `implies`. -/
theorem implicationOfAntecedent : Obligations.ImplicationOfAntecedent := by
  intro a b dst s
  rw [exec_implication]
  exact binaryResult_wrote implies a b dst s

/-- Settles O29: the instruction is `binaryResult` of `coimplies`. -/
theorem coimplicationIsConverse : Obligations.CoimplicationIsConverse := by
  intro a b dst s
  rw [exec_coimplication]
  exact binaryResult_wrote coimplies a b dst s

/-- Settles O30: the instruction is `binaryResult` of `equiv`, which is symmetric. -/
theorem equivalenceIsXnor : Obligations.EquivalenceIsXnor := by
  intro a b dst s
  rw [exec_equivalence, exec_equivalence]
  exact binaryResult_wrote_symm equiv_comm a b dst s

/-- Settles O31: the instruction is `binaryResult` of `nor`, which is symmetric. -/
theorem pierceArrowIsNor : Obligations.PierceArrowIsNor := by
  intro a b dst s
  rw [exec_pierceArrow, exec_pierceArrow]
  exact binaryResult_wrote_symm nor_comm a b dst s

/-- Settles O32: the instruction is `binaryResult` of `nand`, which is symmetric. -/
theorem shefferStrokeIsNand : Obligations.ShefferStrokeIsNand := by
  intro a b dst s
  rw [exec_shefferStroke, exec_shefferStroke]
  exact binaryResult_wrote_symm nand_comm a b dst s

end Sys2Proof.Machine

/-! PROOFS. The integer arithmetic instructions (`44_arith.md`): O35 to O37, O39 and O40. -/

namespace Sys2Proof.Machine

open Sys2Proof

/-! ### The operation each instruction applies (R151 to R155) -/

theorem exec_addition (a b dst : RegIdx) (s : State) :
    exec (.addition a b dst) s = binaryResult sum a b dst s := rfl

theorem exec_subtraction (a b dst : RegIdx) (s : State) :
    exec (.subtraction a b dst) s = binaryResult difference a b dst s := rfl

theorem exec_multiplication (a b dst : RegIdx) (s : State) :
    exec (.multiplication a b dst) s = binaryResult product a b dst s := rfl

theorem exec_division (a b dst : RegIdx) (s : State) :
    exec (.division a b dst) s = divideResult quotient a b dst s := rfl

theorem exec_modulo (a b dst : RegIdx) (s : State) :
    exec (.modulo a b dst) s = divideResult remainder a b dst s := rfl

/-! ### The wrapping operations (R151 to R153) -/

theorem sum_toNat (x y : Word) : ((sum x y).toNat : Int) = (s32 x + s32 y) % 2 ^ 32 := wrap32_toNat _

theorem difference_toNat (x y : Word) : ((difference x y).toNat : Int) = (s32 x - s32 y) % 2 ^ 32 := wrap32_toNat _

theorem product_toNat (x y : Word) : ((product x y).toNat : Int) = (s32 x * s32 y) % 2 ^ 32 := wrap32_toNat _

/-- Settles O35: the instruction is `binaryResult` of `sum`. -/
theorem additionWraps : Obligations.AdditionWraps := by
  intro a b dst s
  obtain ⟨t, ht, hwrote⟩ := binaryResult_wrote sum a b dst s
  exact ⟨t, _, (exec_addition a b dst s).trans ht, hwrote, sum_toNat _ _⟩

/-- Settles O36: the instruction is `binaryResult` of `difference`. -/
theorem subtractionWraps : Obligations.SubtractionWraps := by
  intro a b dst s
  obtain ⟨t, ht, hwrote⟩ := binaryResult_wrote difference a b dst s
  exact ⟨t, _, (exec_subtraction a b dst s).trans ht, hwrote, difference_toNat _ _⟩

/-- Settles O37: the instruction is `binaryResult` of `product`. -/
theorem multiplicationWraps : Obligations.MultiplicationWraps := by
  intro a b dst s
  obtain ⟨t, ht, hwrote⟩ := binaryResult_wrote product a b dst s
  exact ⟨t, _, (exec_multiplication a b dst s).trans ht, hwrote, product_toNat _ _⟩

/-! ### The quotient (R154) -/

theorem quotient_eq (x y : Word) : quotient x y = x.sdiv y := by
  apply BitVec.eq_of_toInt_eq
  rw [quotient, wrap32, BitVec.toInt_ofInt, BitVec.toInt_sdiv, s32, s32]

/-- Every quotient but that of -2^31 by -1 fits the signed range. -/
theorem s32_quotient {x y : Word} (h : ¬ quotientOverflows x y) : s32 (quotient x y) = (s32 x).tdiv (s32 y) := by
  have hne : x ≠ BitVec.intMin 32 ∨ y ≠ -1#32 := by
    by_contra! hxy
    obtain ⟨rfl, rfl⟩ := hxy
    exact h (by decide)
  rw [quotient_eq]
  exact BitVec.toInt_sdiv_of_ne_or_ne x y hne

theorem quotient_of_overflows {x y : Word} (h : quotientOverflows x y) : quotient x y = 0x80000000#32 := by
  rw [quotient, h.1, h.2]
  decide

/-! ### The remainder (R155) -/

theorem remainder_eq (x y : Word) : remainder x y = x.srem y := by
  rw [remainder, ← Int.tmod_def, s32, s32, ← BitVec.toInt_srem]
  exact wrap32_s32 _

/-- Every remainder fits the signed range, that of -2^31 by -1 included. -/
theorem s32_remainder (x y : Word) : s32 (remainder x y) = (s32 x).tmod (s32 y) := by
  rw [remainder_eq]
  exact BitVec.toInt_srem x y

theorem natAbs_s32_remainder_lt (x : Word) {y : Word} (h : ¬ divisorZero y) :
    (s32 (remainder x y)).natAbs < (s32 y).natAbs := by
  rw [s32_remainder, Int.natAbs_tmod]
  exact Nat.mod_lt _ (Int.natAbs_pos.mpr h)

theorem sign_s32_remainder (x y : Word) :
    s32 (remainder x y) = 0 ∨ (s32 (remainder x y)).sign = (s32 x).sign := by
  rw [s32_remainder]
  by_cases hdvd : s32 y ∣ s32 x
  · exact .inl (Int.tmod_eq_zero_of_dvd hdvd)
  · exact .inr (by rw [Int.sign_tmod, if_neg hdvd])

/-! ### What Division and Modulo do, from every state -/

/-- What either instruction changes at each of its three ends, the operands read by `BitVec.toInt`, which is R12's
`s32`. -/
theorem divideResult_ends (f : Word → Word → Word) (a b dst : RegIdx) (s : State) :
    ∃ t, divideResult f a b dst s = .next t ∧
      if (s.reg b).toInt = 0 then TookFault s t .divisionByZero b.toNat
      else if ((s.reg a).toInt = -2 ^ 31 ∧ (s.reg b).toInt = -1) ∧ s.config.divOvf = .fault then
        TookFault s t .divisionOverflow b.toNat
      else WroteOnly s t dst (f (s.reg a) (s.reg b)) := by
  rcases divideResult_cases f a b dst s with ⟨hzero, h⟩ | ⟨hzero, hfault, h⟩ | ⟨hzero, hno, h⟩
  · obtain ⟨t, ht, htook⟩ := raiseFault_took .divisionByZero b.toNat s
    exact ⟨t, h.trans ht, (if_pos hzero).mpr htook⟩
  · obtain ⟨t, ht, htook⟩ := raiseFault_took .divisionOverflow b.toNat s
    exact ⟨t, h.trans ht, (if_neg hzero).mpr ((if_pos hfault).mpr htook)⟩
  · obtain ⟨t, ht, hwrote⟩ := binaryResult_wrote f a b dst s
    exact ⟨t, h.trans ht, (if_neg hzero).mpr ((if_neg hno).mpr hwrote)⟩

/-- Settles O39: the overflow pair ends by DIV_OVF in the fault or in the wrapped quotient 0x80000000, and every other
quotient fits. -/
theorem divisionTruncates : Obligations.DivisionTruncates := by
  intro a b dst s
  obtain ⟨t, ht, hend⟩ := divideResult_ends quotient a b dst s
  refine ⟨t, (exec_division a b dst s).trans ht, ?_⟩
  by_cases hzero : (s.reg b).toInt = 0
  · rwa [if_pos hzero] at hend ⊢
  rw [if_neg hzero] at hend ⊢
  by_cases hovf : (s.reg a).toInt = -2 ^ 31 ∧ (s.reg b).toInt = -1
  · rw [if_pos hovf]
    cases hd : s.config.divOvf with
    | wrap => simpa [hovf, hd, quotient_of_overflows hovf] using hend
    | fault => simpa [hovf, hd] using hend
  · rw [if_neg fun h => hovf h.1] at hend
    rw [if_neg hovf]
    exact ⟨_, hend, s32_quotient hovf⟩

/-- Settles O40: the faults are those of `divideResult`, and the remainder fits the signed range for every divisor. -/
theorem moduloTakesDividendSign : Obligations.ModuloTakesDividendSign := by
  intro a b dst s
  obtain ⟨t, ht, hend⟩ := divideResult_ends remainder a b dst s
  refine ⟨t, (exec_modulo a b dst s).trans ht, ?_⟩
  split_ifs at hend ⊢ with hzero hfault
  · exact hend
  · exact hend
  · exact ⟨_, hend, (s32_remainder _ _).trans (Int.tmod_def _ _), natAbs_s32_remainder_lt _ hzero,
      sign_s32_remainder _ _⟩

end Sys2Proof.Machine

/-! PROOFS. The register moves (`45_move_setbyte.md`): O42 and O43. -/

namespace Sys2Proof.Machine

open Sys2Proof

/-! ### Writes of two different registers -/

theorem RegFile.put_comm (f : RegFile) {i j : RegIdx} (v w : Word) (h : i ≠ j) :
    (f.put i v).put j w = (f.put j w).put i v := by
  have hne : i.toNat ≠ j.toNat := fun e => h (BitVec.eq_of_toNat_eq e)
  simp only [RegFile.put, List.set_comm v w hne]

theorem State.setReg_comm (s : State) {i j : RegIdx} (v w : Word) (h : i ≠ j) :
    (s.setReg i v).setReg j w = (s.setReg j w).setReg i v := by
  simp only [State.setReg, RegFile.put_comm s.rf v w h]

/-! ### Swap (R160) -/

/-- The two writes of Swap, with the values read before either of them. -/
def State.swapRegs (s : State) (a b : RegIdx) : State := (s.setReg a (s.reg b)).setReg b (s.reg a)

theorem exec_swap (a b : RegIdx) (s : State) : exec (.swap a b) s = .next (s.swapRegs a b).advance := rfl

/-- The first register keeps its new value: the second write hits another register, or the same one with the same
value. -/
theorem State.reg_swapRegs_fst (s : State) (a b : RegIdx) : (s.swapRegs a b).reg a = s.reg b := by
  rw [State.swapRegs, State.reg_setReg]
  split
  next h => rw [h]
  next => exact State.reg_setReg_same s a (s.reg b)

theorem State.reg_swapRegs_snd (s : State) (a b : RegIdx) : (s.swapRegs a b).reg b = s.reg a :=
  State.reg_setReg_same _ b (s.reg a)

theorem State.reg_swapRegs_other (s : State) {a b r : RegIdx} (ha : r ≠ a) (hb : r ≠ b) :
    (s.swapRegs a b).reg r = s.reg r := by
  rw [State.swapRegs, State.reg_setReg_other _ _ hb, State.reg_setReg_other _ _ ha]

theorem State.swapRegs_comm (s : State) (a b : RegIdx) : s.swapRegs b a = s.swapRegs a b := by
  by_cases h : b = a
  · rw [h]
  · exact State.setReg_comm s (s.reg a) (s.reg b) h

theorem advanced_swapRegs (s : State) (a b : RegIdx) : Advanced s (s.swapRegs a b).advance :=
  advanced_setReg (s.setReg a (s.reg b)) b (s.reg a)

/-- Settles O42: the instruction is `swapRegs` and an advance, and `swapRegs` is symmetric in its registers. -/
theorem swapExchanges : Obligations.SwapExchanges := by
  intro a b s
  rw [exec_swap, exec_swap, s.swapRegs_comm a b]
  exact ⟨_, rfl, s.reg_swapRegs_fst a b, s.reg_swapRegs_snd a b, fun _ => s.reg_swapRegs_other, rfl,
    advanced_swapRegs s a b, rfl⟩

/-! ### Copy (R161) -/

theorem exec_copy (dst src : RegIdx) (s : State) : exec (.copy dst src) s = writeResult dst (s.reg src) s := rfl

/-- Settles O43: the source is another register than the one written, or receives its own value. -/
theorem copyWritesFirstOperand : Obligations.CopyWritesFirstOperand := by
  intro dst src s
  obtain ⟨t, ht, hwrote⟩ := writeResult_wrote dst (s.reg src) s
  have ⟨hdst, hothers, _⟩ := hwrote
  refine ⟨t, (exec_copy dst src s).trans ht, hwrote, ?_⟩
  by_cases h : src = dst
  · rwa [← h] at hdst
  · exact hothers src h

end Sys2Proof.Machine

/-! PROOFS. The shifts (`46_shift_rotate.md`): O45 and O46. -/

namespace Sys2Proof.Machine

open Sys2Proof

/-! ### ShiftLeft (R171) -/

theorem exec_shiftLeft_wrote (a c dst : RegIdx) (s : State) :
    ∃ t, exec (.shiftLeft a c dst) s = .next t ∧ WroteOnly s t dst (shl (s.reg a) (shiftCount (s.reg c))) :=
  binaryResult_wrote (fun v n => shl v (shiftCount n)) a c dst s

/-- Settles O45: the count is the low five bits of the count register, and `shl` is the library's shift. -/
theorem shiftLeftByLowFiveBits : Obligations.ShiftLeftByLowFiveBits := by
  intro a c dst s
  rw [← shiftCount_eq, ← shl_eq]
  exact exec_shiftLeft_wrote a c dst s

/-! ### ShiftRight (R172) -/

theorem exec_shiftRight_wrote (a c dst : RegIdx) (s : State) :
    ∃ t, exec (.shiftRight a c dst) s = .next t ∧
      WroteOnly s t dst (shiftRightBy s.config.shrArith (s.reg a) (shiftCount (s.reg c))) :=
  binaryResult_wrote (fun v n => shiftRightBy s.config.shrArith v (shiftCount n)) a c dst s

/-- Under SHR_ARITH copies of bit 31 enter. -/
theorem shiftRightBy_of_arith {arith : Bool} (h : arith = true) (v : Word) (n : Nat) :
    shiftRightBy arith v n = v.sshiftRight n := (if_pos h).trans (shrS_eq v n)

/-- Without SHR_ARITH zeros enter. -/
theorem shiftRightBy_of_not_arith {arith : Bool} (h : ¬ arith = true) (v : Word) (n : Nat) :
    shiftRightBy arith v n = v >>> n := (if_neg h).trans (shrU_eq v n)

/-- Settles O46: either value of SHR_ARITH selects one of the two library shifts. -/
theorem shiftRightByParameter : Obligations.ShiftRightByParameter := by
  intro a c dst s
  obtain ⟨t, ht, hwrote⟩ := exec_shiftRight_wrote a c dst s
  refine ⟨t, ht, ?_⟩
  rw [← shiftCount_eq]
  split
  next h => rwa [shiftRightBy_of_arith h] at hwrote
  next h => rwa [shiftRightBy_of_not_arith h] at hwrote

end Sys2Proof.Machine

/-! PROOFS. Taking a recoverable fault (`60_exceptions.md`, R183): O18. -/

namespace Sys2Proof.Machine

open Sys2Proof

/-! ### Records among which a fault's record is the only one -/

/-- The records one instruction appends: a fault's record has no other beside it (R183). -/
def FaultsAlone (recs : List OutRec) : Prop := ∀ k n, .error k n ∈ recs → recs = [.error k n]

theorem faultsAlone_nil : FaultsAlone [] := fun _ _ h => absurd h List.not_mem_nil

theorem faultsAlone_singleton (r : OutRec) : FaultsAlone [r] := fun _ _ h => by rw [List.mem_singleton.mp h]

theorem error_not_mem_regLines (k : FaultKind) (n base : Nat) (snap : List Word) :
    .error k n ∉ regLines base snap := by simp [regLines]

/-- PrintRegisters' dump holds no fault's record (R121). -/
theorem faultsAlone_dump (base : Nat) (snap : List Word) : FaultsAlone (.header base :: regLines base snap) := by
  intro k n h
  obtain h | h := List.mem_cons.mp h
  · cases h
  · exact absurd h (error_not_mem_regLines k n base snap)

/-! ### Every instruction appends such records -/

/-- A next state that `r` answers has appended to the OUT of `s` a fault's record alone, or none. -/
def RecordsFaultsAlone (s : State) (r : Result) : Prop :=
  ∀ t, r = .next t → ∃ recs, t.out = s.out ++ recs ∧ FaultsAlone recs

theorem recordsFaultsAlone_of_out_eq {s u : State} (h : u.out = s.out) : RecordsFaultsAlone s (.next u) := by
  rintro t ⟨⟩
  exact ⟨[], by rw [h, List.append_nil], faultsAlone_nil⟩

theorem writeResult_recordsFaultsAlone (d : RegIdx) (v : Word) (s : State) :
    RecordsFaultsAlone s (writeResult d v s) := recordsFaultsAlone_of_out_eq rfl

theorem appendResult_recordsFaultsAlone {recs : List OutRec} (h : FaultsAlone recs) (s : State) :
    RecordsFaultsAlone s (appendResult recs s) := by
  rintro t ⟨⟩
  exact ⟨recs, rfl, h⟩

theorem raiseFault_recordsFaultsAlone (k : FaultKind) (info : Nat) (s : State) :
    RecordsFaultsAlone s (raiseFault k info s) := appendResult_recordsFaultsAlone (faultsAlone_singleton _) s

theorem divideResult_recordsFaultsAlone (f : Word → Word → Word) (a b dst : RegIdx) (s : State) :
    RecordsFaultsAlone s (divideResult f a b dst s) := by
  rcases divideResult_cases f a b dst s with ⟨_, h⟩ | ⟨_, _, h⟩ | ⟨_, _, h⟩ <;> rw [h]
  · exact raiseFault_recordsFaultsAlone _ _ s
  · exact raiseFault_recordsFaultsAlone _ _ s
  · exact writeResult_recordsFaultsAlone dst _ s

theorem useAnswer_recordsFaultsAlone (p : Prompt) (r : Answer) (s : State) :
    RecordsFaultsAlone s (useAnswer p r s) := by
  rcases useAnswer_cases p r s with ⟨_, h⟩ | ⟨_, _, _, h⟩ | ⟨_, v, _, _, h⟩ <;> rw [h]
  · exact raiseFault_recordsFaultsAlone _ _ s
  · exact raiseFault_recordsFaultsAlone _ _ s
  · exact writeResult_recordsFaultsAlone p.a v s

theorem completeInput_recordsFaultsAlone (p : Prompt) (s : State) : RecordsFaultsAlone s (completeInput p s) := by
  unfold completeInput
  split
  next => exact recordsFaultsAlone_of_out_eq rfl
  next r rest _ => exact useAnswer_recordsFaultsAlone p r (s.answered rest)

theorem execInputOperand_recordsFaultsAlone (a : RegIdx) (base : Nat) (s : State) :
    RecordsFaultsAlone s (execInputOperand a base s) := by
  have ask : RecordsFaultsAlone s (if s.config.inputBaseCheck ∧ ¬ baseLegal base then raiseFault .invalidBase base s
      else requestInput a base s) := by
    split
    · exact raiseFault_recordsFaultsAlone _ _ s
    · exact recordsFaultsAlone_of_out_eq rfl
  unfold execInputOperand
  split
  next p _ => exact completeInput_recordsFaultsAlone p s
  all_goals exact ask

theorem exec_recordsFaultsAlone (i : Instr) (s : State) : RecordsFaultsAlone s (exec i s) := by
  cases i with
  | printRegisters base =>
    simp only [exec, execPrintRegisters]
    split
    · exact appendResult_recordsFaultsAlone (faultsAlone_dump base s.snapshot) s
    · exact raiseFault_recordsFaultsAlone _ _ s
  | printOperand a base =>
    by_cases h : baseLegal base
    · rw [exec_printOperand_legal h]
      exact appendResult_recordsFaultsAlone (faultsAlone_singleton _) s
    · rw [exec_printOperand_illegal h]
      exact raiseFault_recordsFaultsAlone _ _ s
  | inputOperand a base => exact execInputOperand_recordsFaultsAlone a base s
  | division a b dst => exact divideResult_recordsFaultsAlone _ a b dst s
  | modulo a b dst => exact divideResult_recordsFaultsAlone _ a b dst s
  | swap a b => exact recordsFaultsAlone_of_out_eq rfl
  | setByte reg idxReg valReg =>
    simp only [exec, execSetByte]
    split
    · exact raiseFault_recordsFaultsAlone _ _ s
    · exact writeResult_recordsFaultsAlone reg _ s
  | _ => exact writeResult_recordsFaultsAlone _ _ s

/-! ### What an instruction that appends leaves unchanged (R113) -/

/-- Of the shapes of `Ending` only an append changes OUT, and it writes no register. -/
theorem Ending.frame_of_out_ne {s t : State} (h : Ending s t) (hout : t.out ≠ s.out) :
    SameRegs s t ∧ t.pc = s.pc + 1 ∧ SameHostSide s t := by
  cases h with
  | appended recs => exact ⟨fun _ => rfl, rfl, rfl, rfl, rfl, rfl⟩
  | answeredFault p r rest k n => exact ⟨fun _ => rfl, rfl, rfl, rfl, rfl, rfl⟩
  | _ => exact absurd rfl hout

/-- Settles O18: the records appended are the fault's alone, so OUT has changed and the instruction ended in an
append. -/
theorem faultingInstructionOnlyRecords : Obligations.FaultingInstructionOnlyRecords := by
  intro i s t k n hexec herr
  obtain ⟨recs, hout, halone⟩ := exec_recordsFaultsAlone i s t hexec
  rw [hout, List.drop_left] at herr
  rw [halone k n herr] at hout
  have hne : t.out ≠ s.out := by simp [hout]
  exact ⟨hout, (ending_of_exec hexec).frame_of_out_ne hne⟩

end Sys2Proof.Machine

/-! PROOFS. What an instruction and a step of a run do, and the rules of the whole machine that follow: O3, O4, O5, O13,
O14, O16 and O17. -/

namespace Sys2Proof.Machine

open Sys2Proof

/-! ### Finishing a word (R112, R113, R188) -/

/-- An instruction finished from `s`: one word further on, and OUT grown by at most the 513 records of PrintRegisters. -/
def Finished (s t : State) : Prop :=
  Advanced s t ∧ ∃ recs, t.out = s.out ++ recs ∧ recs.length ≤ 513

/-- The result finishes the word that `s` is at. -/
def Finishes (s : State) (r : Result) : Prop := ∃ t, r = .next t ∧ Finished s t

theorem writeResult_finishes (d : RegIdx) (v : Word) (s : State) : Finishes s (writeResult d v s) := by
  obtain ⟨t, ht, -, -, hout, hadv⟩ := writeResult_wrote d v s
  exact ⟨t, ht, hadv, [], by simp [hout], by simp⟩

theorem appendResult_finishes {recs : List OutRec} (h : recs.length ≤ 513) (s : State) :
    Finishes s (appendResult recs s) := by
  obtain ⟨t, ht, -, hout, hadv⟩ := appendResult_appended recs s
  exact ⟨t, ht, hadv, recs, hout, h⟩

theorem raiseFault_finishes (k : FaultKind) (info : Nat) (s : State) : Finishes s (raiseFault k info s) :=
  appendResult_finishes (by simp) s

theorem divideResult_finishes (f : Word → Word → Word) (a b dst : RegIdx) (s : State) :
    Finishes s (divideResult f a b dst s) := by
  rcases divideResult_cases f a b dst s with ⟨_, h⟩ | ⟨_, _, h⟩ | ⟨_, _, h⟩ <;> rw [h]
  · exact raiseFault_finishes _ _ s
  · exact raiseFault_finishes _ _ s
  · exact writeResult_finishes dst _ s

theorem useAnswer_finishes (p : Prompt) (r : Answer) (s : State) : Finishes s (useAnswer p r s) := by
  rcases useAnswer_cases p r s with ⟨_, h⟩ | ⟨_, _, _, h⟩ | ⟨_, v, _, _, h⟩ <;> rw [h]
  · exact raiseFault_finishes _ _ s
  · exact raiseFault_finishes _ _ s
  · exact writeResult_finishes p.a v s

@[simp] theorem regLines_length (base : Nat) (snap : List Word) : (regLines base snap).length = snap.length := by
  simp [regLines]

theorem dump_length (base : Nat) (s : State) : (OutRec.header base :: regLines base s.snapshot).length = 513 := by
  simp

/-! ### PrintRegisters, InputOperand and SetByte by their conditions (R121, R123, R162) -/

theorem exec_printRegisters_legal {base : Nat} (h : baseLegal base) (s : State) :
    exec (.printRegisters base) s = appendResult (.header base :: regLines base s.snapshot) s := if_pos h

theorem exec_printRegisters_illegal {base : Nat} (h : ¬ baseLegal base) (s : State) :
    exec (.printRegisters base) s = raiseFault .invalidBase base s := if_neg h

theorem exec_inputOperand_waiting {s : State} {p : Prompt} (h : s.status = .waitInput p) (a : RegIdx) (base : Nat) :
    exec (.inputOperand a base) s = completeInput p s := by simp [exec, execInputOperand, h]

/-- With no prompt pending InputOperand checks its base where INPUT_BASE_CHECK holds, and asks (R123). -/
theorem exec_inputOperand_asking {s : State} (h : ∀ p, s.status ≠ .waitInput p) (a : RegIdx) (base : Nat) :
    exec (.inputOperand a base) s =
      if s.config.inputBaseCheck ∧ ¬ baseLegal base then raiseFault .invalidBase base s
      else requestInput a base s := by
  cases hs : s.status with
  | waitInput p => exact absurd hs (h p)
  | _ => simp only [exec, execInputOperand, hs]

theorem exec_setByte_inRange {reg idxReg valReg : RegIdx} {s : State}
    (h : ¬ byteOutOfRange (s.reg idxReg) (s.reg valReg)) :
    exec (.setByte reg idxReg valReg) s =
      writeResult reg (insertByte (s.reg reg) (s32 (s.reg idxReg)).toNat (s.reg valReg)) s := if_neg h

theorem exec_setByte_outOfRange {reg idxReg valReg : RegIdx} {s : State}
    (h : byteOutOfRange (s.reg idxReg) (s.reg valReg)) :
    exec (.setByte reg idxReg valReg) s = raiseFault .byteRange reg.toNat s := if_pos h

theorem useAnswer_unparsable {p : Prompt} {cs : List Char} {s : State} (h : parseInt s.config cs p.base = none) :
    useAnswer p (.text cs) s = raiseFault .invalidInput p.a.toNat s := by simp [useAnswer, h]

theorem useAnswer_parsed {p : Prompt} {cs : List Char} {v : Word} {s : State}
    (h : parseInt s.config cs p.base = some v) : useAnswer p (.text cs) s = writeResult p.a v s := by
  simp [useAnswer, h]

theorem completeInput_unanswered {s : State} (h : s.answers = []) (p : Prompt) : completeInput p s = .next s := by
  simp [completeInput, h]

theorem completeInput_answered {s : State} {r : Answer} {rest : List Answer} (h : s.answers = r :: rest) (p : Prompt) :
    completeInput p s = useAnswer p r (s.answered rest) := by simp [completeInput, h]

/-! ### What an instruction does -/

/-- Every instruction finishes its word, but for an InputOperand, which may ask or meet a pending prompt (R112, R123). -/
theorem exec_cases (i : Instr) (s : State) :
    Finishes s (exec i s) ∨
    (∃ a base, i = .inputOperand a base ∧ (s.config.inputBaseCheck = true → baseLegal base) ∧
      exec i s = requestInput a base s) ∨
    (∃ a base p, i = .inputOperand a base ∧ s.status = .waitInput p ∧ exec i s = completeInput p s) := by
  cases i with
  | printRegisters base =>
    left
    by_cases h : baseLegal base
    · rw [exec_printRegisters_legal h]
      exact appendResult_finishes (dump_length base s).le s
    · rw [exec_printRegisters_illegal h]
      exact raiseFault_finishes _ _ s
  | printOperand a base =>
    left
    by_cases h : baseLegal base
    · rw [exec_printOperand_legal h]
      exact appendResult_finishes (by simp) s
    · rw [exec_printOperand_illegal h]
      exact raiseFault_finishes _ _ s
  | inputOperand a base =>
    by_cases hw : ∃ p, s.status = .waitInput p
    · obtain ⟨p, hp⟩ := hw
      exact .inr (.inr ⟨a, base, p, rfl, hp, exec_inputOperand_waiting hp a base⟩)
    · rw [exec_inputOperand_asking (not_exists.mp hw)]
      split
      next => exact .inl (raiseFault_finishes _ _ s)
      next h => exact .inr (.inl ⟨a, base, rfl, fun hc => by_contra fun hb => h ⟨hc, hb⟩, rfl⟩)
  | division a b dst => exact .inl (divideResult_finishes _ a b dst s)
  | modulo a b dst => exact .inl (divideResult_finishes _ a b dst s)
  | swap a b => exact .inl ⟨_, exec_swap a b s, advanced_swapRegs s a b, [], by simp [State.swapRegs], by simp⟩
  | setByte reg idxReg valReg =>
    left
    by_cases h : byteOutOfRange (s.reg idxReg) (s.reg valReg)
    · rw [exec_setByte_outOfRange h]
      exact raiseFault_finishes _ _ s
    · rw [exec_setByte_inRange h]
      exact writeResult_finishes reg _ s
  | _ => exact .inl (writeResult_finishes _ _ s)

/-! ### What a step of a run does -/

/-- In RUNNING with a word to fetch, a step finishes that word, or the word is an InputOperand and asks (R110, R112). -/
theorem step_running_cases {s : State} {w : Word} (hrun : s.status = .running) (hw : s.fetch = some w) :
    Finishes s (step s) ∨
    ∃ a base, decodeWord s.config.opmap w = .ok (.inputOperand a base) ∧
      (s.config.inputBaseCheck = true → baseLegal base) ∧ step s = .next (s.setStatus (.waitInput ⟨a, base⟩)) := by
  rw [step_running hrun]
  rcases runWord_cases hw with ⟨i, hi, hr⟩ | ⟨_, hr⟩ <;> rw [hr]
  · rcases exec_cases i s with h | ⟨a, base, rfl, hbase, h⟩ | ⟨_, _, p, _, hp, _⟩
    · exact .inl h
    · exact .inr ⟨a, base, hi, hbase, h⟩
    · rw [hrun] at hp
      cases hp
  · exact .inl (raiseFault_finishes _ _ s)

/-- In WAIT_INPUT an answer is consumed and the word is finished from RUNNING (R123). -/
theorem step_waiting_answered {s : State} {p : Prompt} {r : Answer} {rest : List Answer}
    (hp : s.status = .waitInput p) (ha : s.answers = r :: rest) : Finishes (s.answered rest) (step s) := by
  rw [step_waiting hp, completeInput_answered ha]
  exact useAnswer_finishes p r (s.answered rest)

theorem step_waiting_unanswered {s : State} {p : Prompt} (hp : s.status = .waitInput p) (ha : s.answers = []) :
    step s = .next s := by rw [step_waiting hp, completeInput_unanswered ha]

/-! ### The invariant (R32, R33, R110) -/

theorem State.exists_fetch_of_pc_lt {s : State} (h : s.pc < s.progLen) : ∃ w, s.fetch = some w :=
  ⟨_, List.getElem?_eq_getElem h⟩

theorem progLen_of_prog_eq {s t : State} (h : t.prog = s.prog) : t.progLen = s.progLen := by
  rw [State.progLen, State.words, h]; rfl

theorem State.Inv.wf {s : State} (h : s.Inv) : s.config.wf = true := h.1

theorem State.Inv.progLen_le {s : State} (h : s.Inv) : ∀ m, s.config.progMax = some m → s.progLen ≤ m := h.2.1

theorem State.Inv.pc_lt {s : State} (h : s.Inv) : s.status = .running → s.pc < s.progLen := h.2.2.1

/-- The word at `pc` of a waiting machine is the InputOperand that asked. -/
theorem State.Inv.waiting_word {s : State} (h : s.Inv) {p : Prompt} (hp : s.status = .waitInput p) :
    ∃ w, s.fetch = some w ∧ decodeWord s.config.opmap w = .ok (.inputOperand p.a p.base) := (h.2.2.2 p hp).1

/-- With no run in progress the invariant is the one of the parameters and the program's length. -/
theorem inv_of_not_inRun {s : State} (hrun : ¬ s.InRun) (hwf : s.config.wf = true)
    (hmax : ∀ m, s.config.progMax = some m → s.progLen ≤ m) : s.Inv :=
  ⟨hwf, hmax, fun h => absurd (.inl h) hrun, fun p h => absurd (.inr ⟨p, h⟩) hrun⟩

/-- A word finished in RUNNING leaves the next word to fetch, or the run is DONE (R112, R115). -/
theorem State.Inv.of_advanced {s t : State} (hinv : s.Inv) (hrun : s.status = .running) (h : Advanced s t) : t.Inv := by
  obtain ⟨htpc, hstatus, hprog, hconfig, -⟩ := h
  have hlen := progLen_of_prog_eq hprog
  have hlt := hinv.pc_lt hrun
  rw [hrun] at hstatus
  refine ⟨hconfig ▸ hinv.wf, by rw [hconfig, hlen]; exact hinv.progLen_le, fun ht => ?_, fun p ht => ?_⟩
  · rw [hstatus] at ht
    split at ht
    · cases ht
    · omega
  · rw [hstatus] at ht
    split at ht <;> cases ht

/-- An InputOperand that asks leaves its own request pending (R33, R123). -/
theorem State.Inv.of_asked {s : State} (hinv : s.Inv) {w : Word} (hw : s.fetch = some w) {a : RegIdx} {base : Nat}
    (hi : decodeWord s.config.opmap w = .ok (.inputOperand a base))
    (hbase : s.config.inputBaseCheck = true → baseLegal base) : (s.setStatus (.waitInput ⟨a, base⟩)).Inv := by
  refine ⟨hinv.wf, hinv.progLen_le, fun h => ?_, fun p h => ?_⟩
  · cases h
  · cases h
    exact ⟨⟨w, hw, hi⟩, hbase⟩

/-- With its prompt answered, the waiting InputOperand is in RUNNING at its own word. -/
theorem State.Inv.of_answered {s : State} (hinv : s.Inv) {p : Prompt} (hp : s.status = .waitInput p)
    (rest : List Answer) : (s.answered rest).Inv := by
  obtain ⟨w, hw, -⟩ := hinv.waiting_word hp
  exact ⟨hinv.wf, hinv.progLen_le, fun _ => s.pc_lt_of_fetch hw, fun q h => by cases h⟩

theorem Finishes.inv {s t : State} {r : Result} (h : Finishes s r) (hinv : s.Inv) (hrun : s.status = .running)
    (hr : r = .next t) : t.Inv := by
  obtain ⟨t', ht', hadv, -⟩ := h
  cases hr.symm.trans ht'
  exact hinv.of_advanced hrun hadv

theorem run_step_keeps_inv {s t : State} (hinv : s.Inv) (hrun : s.InRun) (h : step s = .next t) : t.Inv := by
  rcases hrun with hrun | ⟨p, hp⟩
  · obtain ⟨w, hw⟩ := State.exists_fetch_of_pc_lt (hinv.pc_lt hrun)
    rcases step_running_cases hrun hw with hfin | ⟨a, base, hi, hbase, hask⟩
    · exact hfin.inv hinv hrun h
    · cases h.symm.trans hask
      exact hinv.of_asked hw hi hbase
  · cases ha : s.answers with
    | nil =>
      cases h.symm.trans (step_waiting_unanswered hp ha)
      exact hinv
    | cons r rest => exact (step_waiting_answered hp ha).inv (hinv.of_answered hp rest) rfl h

/-! ### The host's turn (R222) -/

theorem portSet_inversion {index : Int} {v : Word} {s t : State} (h : portSet index v s = .ok t) :
    ∃ i, t = s.setReg i v := by
  unfold portSet at h
  split at h
  · cases h
    exact ⟨_, rfl⟩
  · cases h

theorem portLoad_inversion {p : List Word} {s t : State} (h : portLoad p s = .next t) :
    t = s.setProg p ∧ ∀ m, s.config.progMax = some m → p.length ≤ m := by
  unfold portLoad at h
  split at h
  next hm =>
    cases h
    exact ⟨rfl, fun m hm' => by rw [hm] at hm'; cases hm'⟩
  next m hm =>
    split at h
    next hle =>
      cases h
      exact ⟨rfl, fun m' hm' => by rw [hm] at hm'; cases hm'; exact hle⟩
    next => cases h

theorem portLoadStream_inversion {bytes : List Byte} {s t : State} (h : portLoadStream bytes s = .next t) :
    ∃ p, portLoad p s = .next t := by
  unfold portLoadStream at h
  split at h
  next p _ => exact ⟨p, h⟩
  next => cases h

theorem portStart_inversion {s t : State} (h : portStart s = .next t) :
    ∃ p, s.prog = some p ∧ t = { s with pc := 0, out := [], status := if 0 < p.length then .running else .done } := by
  unfold portStart at h
  split at h
  next p _ hp =>
    cases h
    exact ⟨p, hp, rfl⟩
  all_goals cases h

theorem portCollect_inversion {s t : State} (h : portCollect s = .next t) :
    t = (s.reply (.output s.out)).setStatus .idle := by
  unfold portCollect at h
  split at h
  next =>
    cases h
    rfl
  all_goals cases h

/-- A turn of the host that keeps the status, the parameters and the program keeps the invariant. -/
theorem State.Inv.of_same {s t : State} (hinv : s.Inv) (hrun : ¬ s.InRun) (hstatus : t.status = s.status)
    (hconfig : t.config = s.config) (hprog : t.prog = s.prog) : t.Inv := by
  refine inv_of_not_inRun (by rwa [State.InRun, hstatus]) (hconfig ▸ hinv.wf) ?_
  rw [hconfig, progLen_of_prog_eq hprog]
  exact hinv.progLen_le

theorem portLoad_keeps_inv {p : List Word} {s t : State} (hinv : s.Inv) (hrun : ¬ s.InRun)
    (h : portLoad p s = .next t) : t.Inv := by
  obtain ⟨rfl, hlen⟩ := portLoad_inversion h
  exact inv_of_not_inRun hrun hinv.wf hlen

/-- `start` goes to RUNNING at word 0 only where there is a word 0 (R35). -/
theorem portStart_keeps_inv {s t : State} (hinv : s.Inv) (h : portStart s = .next t) : t.Inv := by
  obtain ⟨p, hp, rfl⟩ := portStart_inversion h
  have hlen : s.progLen = p.length := by simp [State.progLen, State.words, hp]
  refine ⟨hinv.wf, hinv.progLen_le, fun ht => ?_, fun q ht => ?_⟩ <;> dsimp only at ht <;> split at ht
  next hpos => exact hlen ▸ hpos
  all_goals cases ht

theorem portCollect_keeps_inv {s t : State} (hinv : s.Inv) (h : portCollect s = .next t) : t.Inv := by
  cases portCollect_inversion h
  exact inv_of_not_inRun (by simp [State.InRun]) hinv.wf hinv.progLen_le

theorem hostCommand_keeps_inv {c : HostCmd} {s t : State} (hinv : s.Inv) (hrun : ¬ s.InRun)
    (h : hostCommand c s = .next t) : t.Inv := by
  cases c with
  | load p => exact portLoad_keeps_inv hinv hrun h
  | loadStream bytes =>
    obtain ⟨p, hp⟩ := portLoadStream_inversion h
    exact portLoad_keeps_inv hinv hrun hp
  | start => exact portStart_keeps_inv hinv h
  | collect => exact portCollect_keeps_inv hinv h
  | set index v =>
    simp only [hostCommand] at h
    split at h
    next u hu =>
      obtain ⟨i, rfl⟩ := portSet_inversion hu
      cases h
      exact hinv.of_same hrun rfl rfl rfl
    next =>
      cases h
      exact hinv.of_same hrun rfl rfl rfl
  | get index =>
    simp only [hostCommand] at h
    split at h <;> cases h <;> exact hinv.of_same hrun rfl rfl rfl
  | clear | all =>
    cases h
    exact hinv.of_same hrun rfl rfl rfl

theorem step_not_inRun {s : State} (h : ¬ s.InRun) : step s = hostTurn s := by
  cases hs : s.status with
  | idle => exact step_idle hs
  | done => exact step_done hs
  | running => exact absurd (.inl hs) h
  | waitInput p => exact absurd (.inr ⟨p, hs⟩) h

theorem hostTurn_idle {s : State} (h : s.host = []) : hostTurn s = .next s := by simp [hostTurn, h]

theorem hostTurn_command {s : State} {c : HostCmd} {rest : List HostCmd} (h : s.host = c :: rest) :
    hostTurn s = hostCommand c (s.setHost rest) := by simp [hostTurn, h]

theorem hostTurn_keeps_inv {s t : State} (hinv : s.Inv) (hrun : ¬ s.InRun) (h : hostTurn s = .next t) : t.Inv := by
  cases hc : s.host with
  | nil =>
    cases h.symm.trans (hostTurn_idle hc)
    exact hinv
  | cons c rest =>
    rw [hostTurn_command hc] at h
    have hrest : (s.setHost rest).Inv := hinv.of_same hrun rfl rfl rfl
    exact hostCommand_keeps_inv hrest hrun h

/-- Settles O3: in a run the step finishes a word, asks or waits; between runs it is the host's turn. -/
theorem everyStepKeepsInvariant : Obligations.EveryStepKeepsInvariant := by
  intro s t hinv h
  by_cases hrun : s.InRun
  · exact run_step_keeps_inv hinv hrun h
  · exact hostTurn_keeps_inv hinv hrun (step_not_inRun hrun ▸ h)

/-! ### The frame of a run's steps (R28, R31, R36) -/

theorem SameHostSide.refl (s : State) : SameHostSide s s := ⟨rfl, rfl, rfl, rfl⟩

theorem SameHostSide.trans {s t u : State} (h : SameHostSide s t) (h' : SameHostSide t u) : SameHostSide s u := by
  obtain ⟨hp, hc, hh, hr⟩ := h
  obtain ⟨hp', hc', hh', hr'⟩ := h'
  exact ⟨hp'.trans hp, hc'.trans hc, hh'.trans hh, hr'.trans hr⟩

theorem Advanced.sameHostSide {s t : State} (h : Advanced s t) : SameHostSide s t := by
  obtain ⟨-, -, hprog, hconfig, -, hhost, hreplies⟩ := h
  exact ⟨hprog, hconfig, hhost, hreplies⟩

/-- Settles O4: a step that finishes its word appends what the instruction appends; one that asks or waits appends
nothing. -/
theorem runStepAnswersAndFrames : Obligations.RunStepAnswersAndFrames := by
  intro s hinv hrun
  rcases hrun with hrun | ⟨p, hp⟩
  · obtain ⟨w, hw⟩ := State.exists_fetch_of_pc_lt (hinv.pc_lt hrun)
    rcases step_running_cases hrun hw with ⟨t, ht, hadv, recs, hout, hlen⟩ | ⟨a, base, -, -, hask⟩
    · exact ⟨t, ht, hadv.sameHostSide, recs, hout, hlen⟩
    · exact ⟨_, hask, SameHostSide.refl s, [], by simp, by simp⟩
  · cases ha : s.answers with
    | nil => exact ⟨s, step_waiting_unanswered hp ha, SameHostSide.refl s, [], by simp, by simp⟩
    | cons r rest =>
      obtain ⟨t, ht, hadv, recs, hout, hlen⟩ := step_waiting_answered hp ha
      exact ⟨t, ht, hadv.sameHostSide, recs, hout, hlen⟩

/-! ### The end of a run (R115) -/

/-- `t` is `s` with the word at `pc` finished, of which the next is RUNNING or the run DONE; at most one answer was
consumed. -/
structure WordDone (s t : State) : Prop where
  pc : t.pc = s.pc + 1
  status : t.status = if s.pc + 1 = s.progLen then .done else .running
  hostSide : SameHostSide s t
  out : ∃ recs, t.out = s.out ++ recs
  answers : s.answers.length ≤ t.answers.length + 1

theorem WordDone.progLen {s t : State} (h : WordDone s t) : t.progLen = s.progLen := progLen_of_prog_eq h.hostSide.1

theorem Finished.wordDone {s t : State} (h : Finished s t) (hrun : s.status = .running) : WordDone s t := by
  obtain ⟨hadv, recs, hout, -⟩ := h
  have hside := hadv.sameHostSide
  obtain ⟨hpc, hstatus, -, -, hans, -⟩ := hadv
  exact ⟨hpc, hrun ▸ hstatus, hside, ⟨recs, hout⟩, by rw [hans]; omega⟩

/-- The same for a word finished on the answer to its prompt. -/
theorem Finished.wordDone_of_answered {s t : State} {r : Answer} {rest : List Answer}
    (h : Finished (s.answered rest) t) (ha : s.answers = r :: rest) : WordDone s t := by
  have hdone := h.wordDone rfl
  obtain ⟨⟨-, -, -, -, hans, -⟩, -⟩ := h
  exact ⟨hdone.pc, hdone.status, hdone.hostSide, hdone.out, by simp [ha, hans]⟩

/-- Settles O17: a step finishes its word or asks, and on an answer it finishes the waiting word. -/
theorem everyHandlerAdvances : Obligations.EveryHandlerAdvances := by
  refine ⟨fun s hrun hpc => ?_, fun s p hp hne => ?_⟩
  · obtain ⟨w, hw⟩ := State.exists_fetch_of_pc_lt hpc
    rcases step_running_cases hrun hw with ⟨t, ht, hfin⟩ | ⟨a, base, hi, -, hask⟩
    · have hdone := hfin.wordDone hrun
      exact ⟨t, ht, .inl ⟨hdone.pc, hdone.status⟩⟩
    · exact ⟨_, hask, .inr ⟨w, a, base, hw, hi, rfl⟩⟩
  · obtain ⟨r, rest, ha⟩ := List.exists_cons_of_ne_nil hne
    obtain ⟨t, ht, hfin⟩ := step_waiting_answered hp ha
    have hdone := hfin.wordDone_of_answered ha
    exact ⟨t, ht, hdone.pc, hdone.status⟩

theorem runSteps_one {s t : State} (h : step s = .next t) : runSteps 1 s = .next t := runSteps_succ 0 h

/-- With an answer coming, the word at `pc` takes one step, or two where it asks (log 8). -/
theorem word_finishes {s : State} (hinv : s.Inv) (hrun : s.status = .running) (hans : s.answers ≠ []) :
    ∃ k t, k ≤ 2 ∧ runSteps k s = .next t ∧ WordDone s t ∧ t.Inv := by
  obtain ⟨w, hw⟩ := State.exists_fetch_of_pc_lt (hinv.pc_lt hrun)
  rcases step_running_cases hrun hw with ⟨t, ht, hfin⟩ | ⟨a, base, -, -, hask⟩
  · exact ⟨1, t, by omega, runSteps_one ht, hfin.wordDone hrun, everyStepKeepsInvariant s t hinv ht⟩
  · obtain ⟨r, rest, ha⟩ := List.exists_cons_of_ne_nil hans
    have hinv' := everyStepKeepsInvariant s _ hinv hask
    obtain ⟨t, ht, hfin⟩ := step_waiting_answered (s := s.setStatus (.waitInput ⟨a, base⟩)) rfl ha
    have hdone : WordDone s t := hfin.wordDone_of_answered (s := s) ha
    exact ⟨2, t, le_rfl, (runSteps_succ 1 hask).trans (runSteps_one ht), hdone, everyStepKeepsInvariant _ t hinv' ht⟩

/-- `t` is the end of a run from `s`. -/
def EndOfRun (s t : State) : Prop :=
  t.status = .done ∧ t.pc = s.progLen ∧ SameHostSide s t ∧ ∃ recs, t.out = s.out ++ recs

theorem EndOfRun.of_wordDone {s t u : State} (hd : WordDone s t) (he : EndOfRun t u) : EndOfRun s u := by
  obtain ⟨hstatus, hpc, hside, recs, hout⟩ := he
  obtain ⟨recs', hout'⟩ := hd.out
  exact ⟨hstatus, hpc.trans hd.progLen, hd.hostSide.trans hside, recs' ++ recs, by
    rw [hout, hout', List.append_assoc]⟩

/-- A run with `n` words left ends within `2 * n` steps, by induction on `n`. -/
theorem run_ends {n : Nat} {s : State} (hn : s.progLen - s.pc = n) (hinv : s.Inv) (hrun : s.status = .running)
    (hans : n ≤ s.answers.length) : ∃ k t, k ≤ 2 * n ∧ runSteps k s = .next t ∧ EndOfRun s t := by
  have hlt := hinv.pc_lt hrun
  induction n generalizing s with
  | zero => omega
  | succ n ih =>
    have hne : s.answers ≠ [] := List.ne_nil_of_length_pos (by omega)
    obtain ⟨k, t, hk, ht, hdone, htinv⟩ := word_finishes hinv hrun hne
    have hlen := hdone.progLen
    have hpc := hdone.pc
    have hstatus := hdone.status
    split at hstatus
    next hlast => exact ⟨k, t, by omega, ht, hstatus, hpc.trans hlast, hdone.hostSide, hdone.out⟩
    next hmore =>
      have htans := hdone.answers
      obtain ⟨j, u, hj, hu, hend⟩ := ih (by omega) htinv hstatus (by omega) (htinv.pc_lt hstatus)
      exact ⟨k + j, u, by omega, (runSteps_add k j ht).trans hu, .of_wordDone hdone hend⟩

/-- Settles O5: each word left takes at most two steps and one answer. -/
theorem runEndsWhenPromptsAnswered : Obligations.RunEndsWhenPromptsAnswered :=
  fun _ hinv hrun hans => run_ends rfl hinv hrun hans

/-! ### Every instruction from every state (R113, R188) -/

/-- Of the shapes of `Ending` none both writes a register and appends, and none changes the host's side. -/
theorem Ending.wrote_or_appended {s t : State} (h : Ending s t) :
    (t.out = s.out ∨ SameRegs s t) ∧ SameHostSide s t := by
  cases h with
  | appended recs => exact ⟨.inr fun _ => rfl, rfl, rfl, rfl, rfl⟩
  | answeredFault p r rest k n => exact ⟨.inr fun _ => rfl, rfl, rfl, rfl, rfl⟩
  | _ => exact ⟨.inl rfl, rfl, rfl, rfl, rfl⟩

/-- Settles O16: every instruction ends in one of the shapes of `Ending`. -/
theorem handlersWriteOrAppend : Obligations.HandlersWriteOrAppend := by
  intro i s
  obtain ⟨t, ht, hend⟩ := exec_ending i s
  obtain ⟨hor, hside⟩ := hend.wrote_or_appended
  exact ⟨t, ht, hor, hside⟩

/-! ### The pending prompt (R117, R218) -/

/-- Settles O13: the invariant says which word is waiting, and its handler completes the pending prompt. -/
theorem waitingStepRunsItsInputOperand : Obligations.WaitingStepRunsItsInputOperand := by
  intro s p hinv hp
  obtain ⟨w, hw, hi⟩ := hinv.waiting_word hp
  exact ⟨w, _, hw, hi, rfl, by rw [step_waiting hp, exec_inputOperand_waiting hp]⟩

/-- Settles O14: the waiting step is a step to the same state. -/
theorem unansweredPromptNeverEnds : Obligations.UnansweredPromptNeverEnds := by
  intro s p k hp ha
  induction k with
  | zero => rfl
  | succ k ih => exact (runSteps_succ k (step_waiting_unanswered hp ha)).trans ih

end Sys2Proof.Machine

/-! PROOFS. The codec (`30_encoding.md`) and programs carried as bytes (`20_memory.md`): O6, O7, O10, O11 and O56. -/

namespace Sys2Proof

/-! ### Fields and words (R70, R71) -/

theorem Fields.ext_toNat {f g : Fields} (h0 : f.opcode.toNat = g.opcode.toNat) (h1 : f.op1.toNat = g.op1.toNat)
    (h2 : f.op2.toNat = g.op2.toNat) (h3 : f.op3.toNat = g.op3.toNat) : f = g := by
  cases f
  cases g
  congr <;> exact BitVec.eq_of_toNat_eq ‹_›

theorem decodeFields_op1_toNat (w : Word) : (decodeFields w).op1.toNat = w.toNat / 2 ^ 5 % 2 ^ 9 := by
  simp [decodeFields, Nat.shiftRight_eq_div_pow]

theorem decodeFields_op2_toNat (w : Word) : (decodeFields w).op2.toNat = w.toNat / 2 ^ 14 % 2 ^ 9 := by
  simp [decodeFields, Nat.shiftRight_eq_div_pow]

theorem decodeFields_op3_toNat (w : Word) : (decodeFields w).op3.toNat = w.toNat / 2 ^ 23 % 2 ^ 9 := by
  simp [decodeFields, Nat.shiftRight_eq_div_pow]

@[simp] theorem decodeFields_packFields (f : Fields) : decodeFields (packFields f) = f := by
  have h0 := f.opcode.isLt
  have h1 := f.op1.isLt
  have h2 := f.op2.isLt
  have h3 := f.op3.isLt
  apply Fields.ext_toNat
  · rw [packFields_opcode]
  · rw [decodeFields_op1_toNat, packFields_toNat]
    omega
  · rw [decodeFields_op2_toNat, packFields_toNat]
    omega
  · rw [decodeFields_op3_toNat, packFields_toNat]
    omega

@[simp] theorem packFields_decodeFields (w : Word) : packFields (decodeFields w) = w := by
  apply BitVec.eq_of_toNat_eq
  rw [packFields_toNat, decodeFields_opcode_toNat, decodeFields_op1_toNat, decodeFields_op2_toNat,
    decodeFields_op3_toNat]
  have hw := w.isLt
  omega

/-- Settles O7: the fields of a packed word are its fields, and the packed fields of a word are the word. -/
theorem codecIsBijection : Obligations.CodecIsBijection := by
  refine ⟨fun o a b c ho ha hb hc => ⟨_, encodePort_inRange ⟨ho, ha, hb, hc⟩, ?_⟩, fun w => ?_⟩
  · simp only [decodePort, decodeFields_packFields]
    rw [toNat_ofInt_of_inField ho.1 (by omega), toNat_ofInt_of_inField ha.1 (by omega),
      toNat_ofInt_of_inField hb.1 (by omega), toNat_ofInt_of_inField hc.1 (by omega)]
  · have h0 := (decodeFields w).opcode.isLt
    have h1 := (decodeFields w).op1.isLt
    have h2 := (decodeFields w).op2.isLt
    have h3 := (decodeFields w).op3.isLt
    refine ⟨_, _, _, _, rfl, ?_⟩
    rw [encodePort_inRange ⟨by omega, by omega, by omega, by omega⟩]
    simp only [BitVec.ofInt_natCast, BitVec.ofNat_toNat, BitVec.setWidth_eq]
    exact congrArg Except.ok (packFields_decodeFields w)

/-! ### Decoding an encoded instruction (R75, R77) -/

/-- The operands of a well-formed instruction are those its operation reads from its own fields. -/
theorem instrOfFields_operands {i : Instr} (h : i.wf = true) (c : Opcode) :
    instrOfFields i.mnemonic ⟨c, i.operands.1, i.operands.2.1, i.operands.2.2⟩ = i := by
  cases i with
  | printRegisters base | printOperand a base | inputOperand a base =>
    have hbase : base % 2 ^ 9 = base := Nat.mod_eq_of_lt (Nat.lt_succ_of_le (of_decide_eq_true h))
    simp only [Instr.mnemonic, Instr.operands, instrOfFields, BitVec.toNat_ofNat, hbase]
  | _ => rfl

/-- The word of fields whose opcode selects `m` is the instruction `m` with these fields. -/
theorem decodeWord_packFields {o : OpMap} {m : Mnemonic} {f : Fields} (h : o.find f.opcode = some m) :
    decodeWord o (packFields f) = .ok (instrOfFields m f) := by
  have h' : o.find (decodeFields (packFields f)).opcode = some m := by rwa [decodeFields_packFields]
  rw [decodeWord_ok h', decodeFields_packFields]

/-- Settles O6: the opcode field selects the instruction's operation, which reads its operands back. -/
theorem decodeEncodeRoundTrip : Obligations.DecodeEncodeRoundTrip := by
  intro o i ho hi
  rw [encode, decodeWord_packFields (o.find_code ho i.mnemonic), instrOfFields_operands hi]

/-! ### Unused fields (R75, R79) -/

theorem instrOfFields_of_format_b {m : Mnemonic} (h : m.format = .b) (f : Fields) (x y : Operand) :
    instrOfFields m { f with op2 := x, op3 := y } = instrOfFields m f := by
  cases m with
  | printRegisters => rfl
  | _ => cases h

theorem instrOfFields_of_format_two {m : Mnemonic} (h : m.format = .rb ∨ m.format = .rr) (f : Fields) (x : Operand) :
    instrOfFields m { f with op3 := x } = instrOfFields m f := by
  rcases h with h | h <;> (cases m <;> cases h <;> rfl)

theorem instrOfFields_of_format_rNoneR {m : Mnemonic} (h : m.format = .rNoneR) (f : Fields) (x : Operand) :
    instrOfFields m { f with op2 := x } = instrOfFields m f := by
  cases m <;> cases h <;> rfl

/-- Settles O10: the words differ in fields that the operation's format does not read. -/
theorem unusedFieldsIgnored : Obligations.UnusedFieldsIgnored := by
  intro o f m x y hm
  rw [decodeWord_packFields hm]
  refine ⟨fun h => ?_, fun h => ?_, fun h => ?_⟩
  · rw [← instrOfFields_of_format_b h f x y]
    exact decodeWord_packFields hm
  · rw [← instrOfFields_of_format_two h f x]
    exact decodeWord_packFields hm
  · rw [← instrOfFields_of_format_rNoneR h f x]
    exact decodeWord_packFields hm

/-- Settles O11: eight fixed words, each decoded by evaluation. -/
theorem workedEncodingsDecode : Obligations.WorkedEncodingsDecode := by
  unfold Obligations.WorkedEncodingsDecode
  decide

/-! ### Byte streams (R53) -/

/-- Every bit of the word stands in one of its four bytes. -/
theorem append_bytes (w : Word) :
    w.extractLsb' 24 8 ++ w.extractLsb' 16 8 ++ w.extractLsb' 8 8 ++ w.extractLsb' 0 8 = w := by
  ext k hk
  simp only [BitVec.getElem_append, BitVec.getElem_extractLsb']
  rw [← BitVec.getLsbD_eq_getElem]
  split_ifs
  · rw [Nat.zero_add]
  all_goals exact congrArg w.getLsbD (by omega)

theorem programOfStream_word (e : Endian) (w : Word) (rest : List Byte) :
    programOfStream e (bytesOfWord e w ++ rest) = (programOfStream e rest).map (w :: ·) := by
  cases e <;> simp only [bytesOfWord, List.cons_append, List.nil_append, programOfStream, wordOfBytes, append_bytes]

theorem programOfStream_streamOfProgram (e : Endian) (p : List Word) :
    programOfStream e (streamOfProgram e p) = some p := by
  induction p with
  | nil => rfl
  | cons w ws ih =>
    rw [streamOfProgram, List.flatMap_cons, programOfStream_word]
    exact congrArg (Option.map (w :: ·)) ih

theorem programOfStream_eq_none_iff (e : Endian) :
    ∀ bs : List Byte, programOfStream e bs = none ↔ bs.length % 4 ≠ 0
  | [] => by simp [programOfStream]
  | [_] | [_, _] | [_, _, _] => by simp [programOfStream]
  | b0 :: b1 :: b2 :: b3 :: rest => by
    simp only [programOfStream, Option.map_eq_none_iff, programOfStream_eq_none_iff e rest, List.length_cons]
    omega

/-- Settles O56: word by word, and by the length of the stream. -/
theorem streamCarriesProgram : Obligations.StreamCarriesProgram :=
  ⟨programOfStream_streamOfProgram, programOfStream_eq_none_iff⟩

end Sys2Proof

/-! PROOFS. The assembler (`31_assembler.md`): O57, O58 and O59. -/

namespace Sys2Proof.Machine

open Sys2Proof

/-! ### Lines in order (R91, R99, R100) -/

theorem assembleLines_skip {o : OpMap} {l : List Char} {ls : List (List Char)} (h : isInstructionLine l = false) :
    assembleLines o (l :: ls) = assembleLines o ls := by simp [assembleLines, h]

theorem assembleLines_failing {o : OpMap} {l : List Char} {ls : List (List Char)} {e : AsmError}
    (h : isInstructionLine l = true) (he : assembleTokens o (tokens (trim l)) = .error e) :
    assembleLines o (l :: ls) = .error ⟨l, e⟩ := by simp [assembleLines, h, he]

theorem assembleLines_word {o : OpMap} {l : List Char} {ls : List (List Char)} {w : Word}
    (h : isInstructionLine l = true) (hw : assembleTokens o (tokens (trim l)) = .ok w) :
    assembleLines o (l :: ls) = (assembleLines o ls).map (w :: ·) := by
  simp only [assembleLines, h, hw, if_true]
  cases assembleLines o ls <;> rfl

/-- Where lines assemble, the first gives no word, or its own word before those of the rest. -/
theorem assembleLines_cons_ok {o : OpMap} {l : List Char} {ls : List (List Char)} {ws : List Word}
    (h : assembleLines o (l :: ls) = .ok ws) :
    (isInstructionLine l = false ∧ assembleLines o ls = .ok ws) ∨
    ∃ w ws', isInstructionLine l = true ∧ assembleTokens o (tokens (trim l)) = .ok w ∧
      assembleLines o ls = .ok ws' ∧ ws = w :: ws' := by
  cases hl : isInstructionLine l with
  | false => exact .inl ⟨rfl, (assembleLines_skip hl).symm.trans h⟩
  | true =>
    cases hw : assembleTokens o (tokens (trim l)) with
    | error e => cases (assembleLines_failing hl hw).symm.trans h
    | ok w =>
      rw [assembleLines_word hl hw] at h
      cases hls : assembleLines o ls with
      | error e =>
        rw [hls] at h
        cases h
      | ok ws' =>
        rw [hls] at h
        cases h
        exact .inr ⟨w, ws', rfl, rfl, rfl, rfl⟩

/-- Settles O58: induction on the lines before, which assemble and so pass the error on. -/
theorem firstFailingLineIsFatal : Obligations.FirstFailingLineIsFatal := by
  intro o pre post l ws e hpre hl he
  induction pre generalizing ws with
  | nil => exact assembleLines_failing hl he
  | cons first pre ih =>
    rcases assembleLines_cons_ok hpre with ⟨hskip, hrest⟩ | ⟨w, ws', hinstr, hw, hrest, -⟩
    · rw [List.cons_append, assembleLines_skip hskip]
      exact ih ws hrest
    · rw [List.cons_append, assembleLines_word hinstr hw, ih ws' hrest]
      rfl

theorem assembleLines_words {o : OpMap} {ls : List (List Char)} {ws : List Word} (h : assembleLines o ls = .ok ws) :
    (ws.map Except.ok : List (Except AsmError Word)) =
      (ls.filter isInstructionLine).map (fun l => assembleTokens o (tokens (trim l))) := by
  induction ls generalizing ws with
  | nil =>
    cases h
    rfl
  | cons l ls ih =>
    rcases assembleLines_cons_ok h with ⟨hskip, hrest⟩ | ⟨w, ws', hinstr, hw, hrest, rfl⟩
    · rw [List.filter_cons_of_neg (by simp [hskip]), ih hrest]
    · rw [List.filter_cons_of_pos hinstr, List.map_cons, List.map_cons, hw, ih hrest]

/-- Settles O59: each instruction line gives the word of its tokens. -/
theorem oneWordPerInstructionLine : Obligations.OneWordPerInstructionLine :=
  fun _ _ _ h => assembleLines_words h

/-- Every assembled word is the word of some line's tokens. -/
theorem exists_tokens_of_mem_assembled {o : OpMap} {source : List Char} {ws : List Word} {w : Word}
    (h : assemble o source = .ok ws) (hw : w ∈ ws) : ∃ ts, assembleTokens o ts = .ok w := by
  have hmem : (Except.ok w : Except AsmError Word) ∈ ws.map Except.ok := List.mem_map_of_mem hw
  rw [assembleLines_words h] at hmem
  obtain ⟨l, -, hl⟩ := List.mem_map.mp hmem
  exact ⟨_, hl⟩

/-! ### Unused fields of an assembled word (R96, R97) -/

theorem operandValues_length {ks : List Slot} {ts : List (List Char)} {vs : List Int}
    (h : operandValues ks ts = .ok vs) : vs.length = ks.length := by
  induction ks generalizing ts vs with
  | nil =>
    cases ts with
    | nil =>
      cases h
      rfl
    | cons t ts => cases h
  | cons k ks ih =>
    cases ts with
    | nil =>
      simp only [operandValues] at h
      split at h
      next vs' hvs =>
        cases h
        simp [ih hvs]
      next => cases h
    | cons t ts =>
      simp only [operandValues] at h
      split at h
      next => cases h
      next v _ =>
        split at h
        next vs' hvs =>
          cases h
          simp [ih hvs]
        next => cases h

/-- The fields a format does not use are 0. -/
def UnusedZero (f : Format) (op2 op3 : Operand) : Prop :=
  match f with
  | .b => op2 = 0 ∧ op3 = 0
  | .rb | .rr => op3 = 0
  | .rNoneR => op2 = 0
  | .rrr => True

/-- A value for each slot of the format leaves the unused operands 0. -/
theorem placeOperands_unusedZero {f : Format} {vs : List Int} (h : vs.length = (slotsOf f).length) :
    UnusedZero f (BitVec.ofInt 9 (placeOperands f vs).2.1) (BitVec.ofInt 9 (placeOperands f vs).2.2) := by
  cases f with
  | b =>
    have h1 : vs.getD 1 0 = 0 := List.getD_eq_default _ _ h.le
    have h2 : vs.getD 2 0 = 0 := List.getD_eq_default _ _ (h.le.trans (by decide))
    exact ⟨congrArg _ h1, congrArg _ h2⟩
  | rb | rr =>
    have h2 : vs.getD 2 0 = 0 := List.getD_eq_default _ _ h.le
    exact congrArg (BitVec.ofInt 9) h2
  | rNoneR => rfl
  | rrr => trivial

/-- Fields whose unused ones are 0 are those of the instruction they stand for. -/
theorem encode_instrOfFields {o : OpMap} {m : Mnemonic} {f : Fields} (hc : o.code m = f.opcode)
    (h : UnusedZero m.format f.op2 f.op3) : encode o (instrOfFields m f) = packFields f := by
  obtain ⟨c, op1, op2, op3⟩ := f
  rw [encode, instrOfFields_mnemonic, hc]
  cases m with
  | printRegisters =>
    obtain ⟨rfl, rfl⟩ := h
    simp [instrOfFields, Instr.operands]
  | printOperand | inputOperand =>
    cases h
    simp [instrOfFields, Instr.operands]
  | bitwiseInversion | maxPowerOfTwo | swap | copy =>
    cases h
    rfl
  | _ => rfl

theorem encodePort_inversion {o a b c : Int} {w : Word} (h : encodePort o a b c = .ok w) :
    w = packFields ⟨BitVec.ofInt 5 o, BitVec.ofInt 9 a, BitVec.ofInt 9 b, BitVec.ofInt 9 c⟩ := by
  unfold encodePort at h
  split at h <;> cases h
  rfl

/-- A line's word has the opcode of some operation, and the fields its format does not use are 0. -/
theorem assembleTokens_fields {o : OpMap} {ts : List (List Char)} {w : Word} (h : assembleTokens o ts = .ok w) :
    ∃ m f, w = packFields f ∧ o.code m = f.opcode ∧ UnusedZero m.format f.op2 f.op3 := by
  unfold assembleTokens at h
  split at h
  next => cases h
  next t rest =>
    split at h
    next => cases h
    next m _ =>
      split at h
      next => cases h
      next vs hvs =>
        dsimp only at h
        split at h
        next w' hw =>
          cases h
          exact ⟨m, _, encodePort_inversion hw, by simp, placeOperands_unusedZero (operandValues_length hvs)⟩
        next => cases h

/-- Settles O57: the word's operation is found again, and its unused fields being 0, encoding gives the word back. -/
theorem assembledWordsAreInstructions : Obligations.AssembledWordsAreInstructions := by
  intro o source ws ho hasm w hw
  obtain ⟨ts, hts⟩ := exists_tokens_of_mem_assembled hasm hw
  obtain ⟨m, f, rfl, hcode, hzero⟩ := assembleTokens_fields hts
  have hfind : o.find f.opcode = some m := hcode ▸ o.find_code ho m
  exact ⟨_, decodeWord_packFields hfind, instrOfFields_wf m f, encode_instrOfFields hcode hzero⟩

end Sys2Proof.Machine

/-! PROOFS. The default text functions (`41_io.md` section 3): O60. -/

namespace Sys2Proof.Machine

open Sys2Proof

/-! ### One digit -/

theorem digitValue_digitChar {d : Nat} (h : d < 36) : digitValue (digitChar d) = some d := by
  have hall : ∀ d < 36, digitValue (digitChar d) = some d := by decide
  exact hall d h

theorem digitChar_ne_sign {d : Nat} (h : d < 36) : digitChar d ≠ '+' ∧ digitChar d ≠ '-' := by
  have hall : ∀ d < 36, digitChar d ≠ '+' ∧ digitChar d ≠ '-' := by decide
  exact hall d h

theorem digitsFrom_digitChar {base d : Nat} (hd : d < base) (hbase : base ≤ 36) (acc : Nat) (cs : List Char) :
    digitsFrom base acc (digitChar d :: cs) = digitsFrom base (acc * base + d) cs := by
  simp [digitsFrom, digitValue_digitChar (hd.trans_le hbase), hd]

/-! ### The digits of a number -/

/-- Reading the digits of `n` and then `cs` is reading `cs` after `n`. -/
theorem digitsFrom_digitsOf {base : Nat} (h2 : 2 ≤ base) (h36 : base ≤ 36) {fuel n : Nat} (hn : n < base ^ fuel)
    (cs : List Char) : digitsFrom base 0 (digitsOf base fuel n cs) = digitsFrom base n cs := by
  induction fuel generalizing n cs with
  | zero =>
    obtain rfl : n = 0 := by simpa using hn
    rfl
  | succ fuel ih =>
    have hmod : n % base < base := Nat.mod_lt n (by omega)
    have hdiv : n / base * base + n % base = n := by rw [Nat.mul_comm]; exact Nat.div_add_mod n base
    rw [digitsOf]
    split
    next h0 =>
      rw [digitsFrom_digitChar hmod h36, ← h0, hdiv]
    next =>
      have hlt : n / base < base ^ fuel := Nat.div_lt_of_lt_mul (by rwa [Nat.mul_comm, ← Nat.pow_succ])
      rw [ih hlt, digitsFrom_digitChar hmod h36, hdiv]

/-- The digits begin with a digit. -/
theorem digitsOf_eq_cons {base : Nat} (h2 : 2 ≤ base) (fuel n : Nat) (cs : List Char) :
    ∃ d < base, ∃ ds, digitsOf base (fuel + 1) n cs = digitChar d :: ds := by
  induction fuel generalizing n cs with
  | zero =>
    refine ⟨n % base, Nat.mod_lt n (by omega), cs, ?_⟩
    rw [digitsOf, digitsOf, ite_self]
  | succ fuel ih =>
    rw [digitsOf]
    split
    next => exact ⟨n % base, Nat.mod_lt n (by omega), cs, rfl⟩
    next => exact ih (n / base) _

theorem unsignedLiteral_eq_digitsFrom (base : Nat) {cs : List Char} (h : cs ≠ []) :
    unsignedLiteral base cs = digitsFrom base 0 cs := by
  cases cs with
  | nil => exact absurd rfl h
  | cons c cs => rfl

theorem unsignedLiteral_digitsOf {base : Nat} (h2 : 2 ≤ base) (h36 : base ≤ 36) {fuel n : Nat}
    (hn : n < base ^ (fuel + 1)) : unsignedLiteral base (digitsOf base (fuel + 1) n []) = some n := by
  obtain ⟨d, -, ds, hds⟩ := digitsOf_eq_cons h2 fuel n []
  rw [unsignedLiteral_eq_digitsFrom base (by simp [hds]), digitsFrom_digitsOf h2 h36 hn]
  rfl

/-- A digit is no sign, so a text that begins with one is read without a sign. -/
theorem signedLiteral_digitChar (base : Nat) {d : Nat} (hd : d < 36) (cs : List Char) :
    signedLiteral base (digitChar d :: cs) = (unsignedLiteral base (digitChar d :: cs)).map Int.ofNat := by
  obtain ⟨hplus, hminus⟩ := digitChar_ne_sign hd
  rw [signedLiteral]
  · exact fun _ h => hplus (List.cons.inj h).1
  · exact fun _ h => hminus (List.cons.inj h).1

theorem signedLiteral_digitsOf {base : Nat} (h2 : 2 ≤ base) (h36 : base ≤ 36) {fuel n : Nat}
    (hn : n < base ^ (fuel + 1)) : signedLiteral base (digitsOf base (fuel + 1) n []) = some (n : Int) := by
  obtain ⟨d, hd, ds, hds⟩ := digitsOf_eq_cons h2 fuel n []
  have hval := unsignedLiteral_digitsOf h2 h36 hn
  rw [hds] at hval ⊢
  rw [signedLiteral_digitChar base (by omega), hval]
  rfl

/-! ### A 32-bit value -/

theorem natAbs_s32_lt (v : Word) {base : Nat} (h2 : 2 ≤ base) : (s32 v).natAbs < base ^ 32 := by
  have hv := s32_bounds v
  have hpow : 2 ^ 32 ≤ base ^ 32 := Nat.pow_le_pow_left h2 32
  omega

theorem narrow32_s32 (v : Word) : narrow32 (s32 v) = some v := by
  rw [narrow32, if_pos (s32_bounds v), wrap32_s32]

/-- Zero is no special case: its one digit is 0. -/
theorem formatIntDefault_of_nonneg {v : Word} {base : Nat} (h : baseLegal base) (hv : 0 ≤ s32 v) :
    formatIntDefault v base = digitsOf base 32 (s32 v).natAbs [] := by
  rw [formatIntDefault, if_pos h]
  split
  next hzero =>
    rw [hzero, Int.natAbs_zero, digitsOf, if_pos (Nat.zero_div base), Nat.zero_mod]
    rfl
  next => exact if_neg hv.not_gt

theorem formatIntDefault_of_neg {v : Word} {base : Nat} (h : baseLegal base) (hv : s32 v < 0) :
    formatIntDefault v base = '-' :: digitsOf base 32 (s32 v).natAbs [] := by
  rw [formatIntDefault, if_pos h, if_neg hv.ne, if_pos hv]

/-- The text of a value spells the value. -/
theorem signedLiteral_formatIntDefault (v : Word) {base : Nat} (h : baseLegal base) :
    signedLiteral base (formatIntDefault v base) = some (s32 v) := by
  have hlt := natAbs_s32_lt v h.1
  rcases le_or_gt 0 (s32 v) with hv | hv
  · rw [formatIntDefault_of_nonneg h hv, signedLiteral_digitsOf h.1 h.2 hlt, Int.natAbs_of_nonneg hv]
  · have habs : -Int.ofNat (s32 v).natAbs = s32 v := by simp only [Int.ofNat_eq_natCast]; omega
    rw [formatIntDefault_of_neg h hv, signedLiteral, unsignedLiteral_digitsOf h.1 h.2 hlt, Option.map_some, habs]

/-- Settles O60: the text spells the value, which is in the signed range. -/
theorem parseReadsBackFormat : Obligations.ParseReadsBackFormat := by
  intro c v base hformat hparse h2 h36
  rw [formatInt_standard hformat, parseInt_standard hparse, parseIntDefault, if_pos ⟨h2, h36⟩,
    signedLiteral_formatIntDefault v ⟨h2, h36⟩]
  exact narrow32_s32 v

end Sys2Proof.Machine

/-! PROOFS. Instructions on registers, input and output: O21, O23, O24 (`41_io.md`), O27, O33, O34 (`43_bitwise.md`), O38,
O41 (`44_arith.md`), O44 (`45_move_setbyte.md`), O47 and O48 (`46_shift_rotate.md`). -/

namespace Sys2Proof.Machine

open Sys2Proof

/-! ### PrintRegisters (R121) -/

/-- Line `i` of the dump is register `i`'s. -/
theorem regLines_getElem (base : Nat) (s : State) (i : RegIdx) :
    (regLines base s.snapshot)[i.toNat]? = some (.regLine i (s.reg i) base) := by
  simp [regLines, State.snapshot_getElem]

/-- Settles O21: with a legal base the records are the header and the lines of the snapshot. -/
theorem printRegistersAppends : Obligations.PrintRegistersAppends := by
  intro base s
  split
  next h =>
    rw [exec_printRegisters_legal h]
    obtain ⟨t, ht, happ⟩ := appendResult_appended (.header base :: regLines base s.snapshot) s
    exact ⟨t, ht, _, happ, dump_length base s, rfl, regLines_getElem base s⟩
  next h =>
    rw [exec_printRegisters_illegal h]
    exact raiseFault_took .invalidBase base s

/-! ### InputOperand (R123) -/

/-- Settles O23: in RUNNING no prompt is pending, so the base is checked and the prompt issued. -/
theorem inputOperandAsks : Obligations.InputOperandAsks := by
  intro a base s hrun
  have hno : ∀ p, s.status ≠ .waitInput p := by simp [hrun]
  rw [exec_inputOperand_asking hno]
  split
  next => exact raiseFault_took .invalidBase base s
  next => exact ⟨_, rfl, rfl⟩

/-- Settles O24: the answer is used from RUNNING, in one of its three ends. -/
theorem inputOperandCompletes : Obligations.InputOperandCompletes := by
  intro a base s r rest hp ha
  rw [exec_inputOperand_waiting hp, completeInput_answered ha]
  cases r with
  | absent => exact raiseFault_took .inputCancelled a.toNat (s.answered rest)
  | text cs =>
    cases hparse : parseInt s.config cs base with
    | none =>
      rw [useAnswer_unparsable hparse]
      simp only [hparse]
      exact raiseFault_took .invalidInput a.toNat (s.answered rest)
    | some v =>
      rw [useAnswer_parsed hparse]
      simp only [hparse]
      exact writeResult_wrote a v (s.answered rest)

/-! ### Binary bitwise instructions (R136 to R143) -/

theorem exec_disjunction (a b dst : RegIdx) (s : State) :
    exec (.disjunction a b dst) s = binaryResult disj a b dst s := rfl

theorem exec_conjunction (a b dst : RegIdx) (s : State) :
    exec (.conjunction a b dst) s = binaryResult conj a b dst s := rfl

theorem exec_xor (a b dst : RegIdx) (s : State) : exec (.xor a b dst) s = binaryResult exclOr a b dst s := rfl

/-- Settles O27: each instruction is `binaryResult` of its operation. -/
theorem disjunctionConjunctionXor : Obligations.DisjunctionConjunctionXor := by
  intro a b dst s
  rw [exec_disjunction, exec_conjunction, exec_xor]
  exact ⟨binaryResult_wrote disj a b dst s, binaryResult_wrote conj a b dst s, binaryResult_wrote exclOr a b dst s⟩

/-- The value `f` of the operands stands in the destination afterwards. -/
theorem binaryResult_reg (f : Word → Word → Word) (a b dst : RegIdx) (s : State) :
    ∃ t, binaryResult f a b dst s = .next t ∧ t.reg dst = f (s.reg a) (s.reg b) := by
  obtain ⟨t, ht, hdst, -⟩ := binaryResult_wrote f a b dst s
  exact ⟨t, ht, hdst⟩

/-- Where `f` acts bit by bit as `g` does, bit `k` of the destination is `g` of the operands' bits. -/
theorem binaryResult_bit {f : Word → Word → Word} {g : Bool → Bool → Bool} {k : Nat}
    (hf : ∀ x y : Word, (f x y).getLsbD k = g (x.getLsbD k) (y.getLsbD k)) (a b dst : RegIdx) (s : State) :
    ∃ t, binaryResult f a b dst s = .next t ∧
      (t.reg dst).getLsbD k = g ((s.reg a).getLsbD k) ((s.reg b).getLsbD k) := by
  obtain ⟨t, ht, hdst⟩ := binaryResult_reg f a b dst s
  exact ⟨t, ht, by rw [hdst, hf]⟩

theorem coimplies_eq_implies (x y : Word) : coimplies x y = implies y x := BitVec.or_comm x (~~~y)

theorem equiv_eq_not_xor (x y : Word) : equiv x y = ~~~(x ^^^ y) := by
  ext k hk
  simp only [equiv, BitVec.getElem_or, BitVec.getElem_and, BitVec.getElem_not, BitVec.getElem_xor]
  cases x[k] <;> cases y[k] <;> rfl

/-! Bit `k` of each operation's value, the rows of the truth table. -/

theorem getLsbD_disj (k : Nat) (x y : Word) : (disj x y).getLsbD k = (x.getLsbD k || y.getLsbD k) :=
  BitVec.getLsbD_or

theorem getLsbD_conj (k : Nat) (x y : Word) : (conj x y).getLsbD k = (x.getLsbD k && y.getLsbD k) :=
  BitVec.getLsbD_and

theorem getLsbD_exclOr (k : Nat) (x y : Word) : (exclOr x y).getLsbD k = (x.getLsbD k != y.getLsbD k) :=
  BitVec.getLsbD_xor

theorem getLsbD_implies {k : Nat} (hk : k < 32) (x y : Word) :
    (implies x y).getLsbD k = (!x.getLsbD k || y.getLsbD k) := by simp [implies, hk]

theorem getLsbD_coimplies {k : Nat} (hk : k < 32) (x y : Word) :
    (coimplies x y).getLsbD k = (x.getLsbD k || !y.getLsbD k) := by simp [coimplies, hk]

theorem getLsbD_equiv {k : Nat} (hk : k < 32) (x y : Word) :
    (equiv x y).getLsbD k = (x.getLsbD k == y.getLsbD k) := by
  rw [equiv_eq_not_xor, BitVec.getLsbD_not, BitVec.getLsbD_xor]
  cases x.getLsbD k <;> cases y.getLsbD k <;> simp [hk]

theorem getLsbD_nor {k : Nat} (hk : k < 32) (x y : Word) :
    (nor x y).getLsbD k = !(x.getLsbD k || y.getLsbD k) := by simp [nor, hk]

theorem getLsbD_nand {k : Nat} (hk : k < 32) (x y : Word) :
    (nand x y).getLsbD k = !(x.getLsbD k && y.getLsbD k) := by simp [nand, hk]

/-- Settles O33: each operation acts on bit `k` of its operands alone, as its row of the table says. -/
theorem bitwiseTruthTable : Obligations.BitwiseTruthTable := by
  intro a b dst s k hk A B
  obtain ⟨t1, ht1, h1⟩ := binaryResult_bit (g := fun x y => x || y) (getLsbD_disj k) a b dst s
  obtain ⟨t2, ht2, h2⟩ := binaryResult_bit (g := fun x y => x && y) (getLsbD_conj k) a b dst s
  obtain ⟨t3, ht3, h3⟩ := binaryResult_bit (g := fun x y => x != y) (getLsbD_exclOr k) a b dst s
  obtain ⟨t4, ht4, h4⟩ := binaryResult_bit (g := fun x y => !x || y) (getLsbD_implies hk) a b dst s
  obtain ⟨t5, ht5, h5⟩ := binaryResult_bit (g := fun x y => x || !y) (getLsbD_coimplies hk) a b dst s
  obtain ⟨t6, ht6, h6⟩ := binaryResult_bit (g := fun x y => x == y) (getLsbD_equiv hk) a b dst s
  obtain ⟨t7, ht7, h7⟩ := binaryResult_bit (g := fun x y => !(x || y)) (getLsbD_nor hk) a b dst s
  obtain ⟨t8, ht8, h8⟩ := binaryResult_bit (g := fun x y => !(x && y)) (getLsbD_nand hk) a b dst s
  exact ⟨t1, t2, t3, t4, t5, t6, t7, t8, ht1, h1, ht2, h2, ht3, h3, ht4, h4, ht5, h5, ht6, h6, ht7, h7, ht8, h8⟩

/-- `-v - 1` of a 32-bit value is in the signed range (R130). -/
theorem toInt_not (v : Word) : (~~~v).toInt = -v.toInt - 1 := by
  have hv := v.isLt
  rw [BitVec.toInt_eq_toNat_cond, BitVec.toInt_eq_toNat_cond, BitVec.toNat_not]
  split_ifs <;> omega

/-- Settles O34: an identity of words for each law, at the values of the operands. -/
theorem bitwiseDerivedLaws : Obligations.BitwiseDerivedLaws := by
  intro a b dst s
  refine ⟨?_, ?_, ?_⟩
  · simp only [exec_coimplication, exec_implication, binaryResult, coimplies_eq_implies]
  · obtain ⟨t, ht, hdst⟩ := binaryResult_reg equiv a b dst s
    exact ⟨t, ht, hdst.trans (equiv_eq_not_xor _ _)⟩
  · obtain ⟨t, ht, hdst, -⟩ := exec_bitwiseInversion_wrote a dst s
    exact ⟨t, ht, by rw [hdst, toInt_not]⟩

/-! ### Arithmetic (R151 to R155) -/

theorem wrap32_sub (y z : Int) : wrap32 (y - z) = wrap32 y - wrap32 z := by
  simp only [wrap32, Int.sub_eq_add_neg, BitVec.ofInt_add, BitVec.ofInt_neg, BitVec.sub_eq_add_neg]

theorem wrap32_mul (y z : Int) : wrap32 (y * z) = wrap32 y * wrap32 z := BitVec.ofInt_mul y z

theorem difference_eq (x y : Word) : difference x y = x - y := by
  rw [difference, wrap32_sub, wrap32_s32, wrap32_s32]

/-- Settles O38: the three results are the library's sum, difference and product of words. -/
theorem wrappingResultsIgnoreSign : Obligations.WrappingResultsIgnoreSign := by
  intro a b dst s
  refine ⟨?_, ?_, ?_⟩
  · obtain ⟨t, ht, hdst⟩ := binaryResult_reg sum a b dst s
    exact ⟨t, ht, by rw [hdst, sum_eq, BitVec.toNat_add]⟩
  · obtain ⟨t, ht, hdst⟩ := binaryResult_reg difference a b dst s
    exact ⟨t, ht, by rw [hdst, difference_eq, BitVec.sub_add_cancel]⟩
  · obtain ⟨t, ht, hdst⟩ := binaryResult_reg product a b dst s
    exact ⟨t, ht, by rw [hdst, product_eq, BitVec.toNat_mul]⟩

/-- Narrowing the exact remainder is subtracting, in words, the divisor times the narrowed quotient. -/
theorem remainder_eq_sub (x y : Word) : remainder x y = x - y * quotient x y := by
  rw [remainder, wrap32_sub, wrap32_mul, wrap32_s32, wrap32_s32, quotient]

theorem divideResult_of_wrap {s : State} {b : RegIdx} (hb : s.reg b ≠ 0) (hwrap : s.config.divOvf = .wrap)
    (f : Word → Word → Word) (a dst : RegIdx) : divideResult f a b dst s = binaryResult f a b dst s := by
  have hzero : ¬ divisorZero (s.reg b) := mt (s32_eq_zero_iff _).mp hb
  rw [divideResult, if_neg hzero, if_neg (by simp [hwrap])]

/-- Settles O41: under DIV_OVF = wrap both complete, and the remainder is the dividend less the divisor times the
quotient. -/
theorem quotientAndRemainderRebuild : Obligations.QuotientAndRemainderRebuild := by
  intro a b dst s hb hwrap
  rw [exec_division, exec_modulo, divideResult_of_wrap hb hwrap, divideResult_of_wrap hb hwrap]
  obtain ⟨t, ht, hquot⟩ := binaryResult_reg quotient a b dst s
  obtain ⟨u, hu, hrem⟩ := binaryResult_reg remainder a b dst s
  exact ⟨t, u, ht, hu, by rw [hquot, hrem, remainder_eq_sub, add_sub_cancel]⟩

/-! ### SetByte (R162) -/

theorem getLsbD_byteOf (v : Word) (k j : Nat) : (byteOf v k).getLsbD j = (decide (j < 8) && v.getLsbD (8 * k + j)) := by
  simp [byteOf, BitVec.getLsbD_extractLsb']

theorem getLsbD_0xFF (n : Nat) : (0xFF#32).getLsbD n = decide (n < 8) := Nat.testBit_two_pow_sub_one 8 n

theorem getLsbD_of_u32_lt {b : Word} {m n : Nat} (hb : u32 b < 2 ^ m) (hn : m ≤ n) : b.getLsbD n = false :=
  Nat.testBit_lt_two_pow (hb.trans_le (Nat.pow_le_pow_right (by decide) hn))

/-- Bit `n` of the new word is the byte value's where byte `i` stands, and the old word's elsewhere. -/
theorem getLsbD_insertByte {b : Word} (hb : u32 b < 2 ^ 8) (old : Word) (i : Nat) {n : Nat} (hn : n < 32) :
    (insertByte old i b).getLsbD n =
      if 8 * i ≤ n ∧ n < 8 * i + 8 then b.getLsbD (n - 8 * i) else old.getLsbD n := by
  simp only [insertByte, shl_eq, BitVec.getLsbD_or, BitVec.getLsbD_and, BitVec.getLsbD_not, BitVec.getLsbD_shiftLeft,
    getLsbD_0xFF, hn, decide_true, Bool.true_and]
  by_cases hbelow : n < 8 * i
  · simp [hbelow]
  · by_cases hin : n - 8 * i < 8
    · rw [if_pos ⟨by omega, by omega⟩]
      simp [hbelow, hin]
    · rw [if_neg (by omega), getLsbD_of_u32_lt hb (by omega)]
      simp [hin]

theorem byteOf_insertByte {b : Word} (hb : u32 b < 2 ^ 8) (old : Word) (i : Nat) {k : Nat} (hk : k < 4) :
    byteOf (insertByte old i b) k = if k = i then byteOf b 0 else byteOf old k := by
  apply BitVec.eq_of_getLsbD_eq
  intro j hj
  rw [getLsbD_byteOf, getLsbD_insertByte hb old i (by omega)]
  split
  next h => rw [if_pos (by omega), getLsbD_byteOf, show 8 * k + j - 8 * i = 8 * 0 + j by omega]
  next h => rw [if_neg (by omega), getLsbD_byteOf]

theorem not_byteOutOfRange_iff (x v : Word) :
    ¬ byteOutOfRange x v ↔ 0 ≤ x.toInt ∧ x.toInt ≤ 3 ∧ 0 ≤ v.toInt ∧ v.toInt ≤ 255 := by
  simp only [byteOutOfRange, s32]
  omega

theorem u32_lt_of_toInt {v : Word} (h0 : 0 ≤ v.toInt) (h255 : v.toInt ≤ 255) : u32 v < 2 ^ 8 := by
  rw [BitVec.toInt_eq_toNat_cond] at h0 h255
  rw [u32]
  split_ifs at h0 h255 <;> omega

/-- Settles O44: in range the register gets `insertByte` of it, which changes one byte. -/
theorem setByteReplacesOneByte : Obligations.SetByteReplacesOneByte := by
  intro reg idxReg valReg s
  split
  next h =>
    rw [exec_setByte_inRange ((not_byteOutOfRange_iff _ _).mpr h)]
    obtain ⟨t, ht, hwrote⟩ :=
      writeResult_wrote reg (insertByte (s.reg reg) (s32 (s.reg idxReg)).toNat (s.reg valReg)) s
    refine ⟨t, ht, _, hwrote, fun k hk => ?_⟩
    obtain ⟨hidx, -, hval, hval255⟩ := h
    rw [byteOf_insertByte (u32_lt_of_toInt hval hval255) _ _ hk]
    have hk' : k = (s32 (s.reg idxReg)).toNat ↔ (k : Int) = (s.reg idxReg).toInt := by
      rw [s32]
      omega
    simp only [hk']
  next h =>
    rw [exec_setByte_outOfRange (not_not.mp (mt (not_byteOutOfRange_iff _ _).mp h))]
    exact raiseFault_took .byteRange reg.toNat s

/-! ### Rotates (R173, R174) -/

theorem rotateLeftBy_eq (v : Word) {n : Nat} (hn : n < 32) : rotateLeftBy v n = v.rotateLeft n := by
  rw [BitVec.rotateLeft_def, Nat.mod_eq_of_lt hn, rotateLeftBy, shl_eq, shrU_eq]
  split
  next h =>
    subst h
    simp [BitVec.ushiftRight_eq_zero]
  next => rfl

theorem rotateRightBy_eq (v : Word) {n : Nat} (hn : n < 32) : rotateRightBy v n = v.rotateRight n := by
  rw [BitVec.rotateRight_def, Nat.mod_eq_of_lt hn, rotateRightBy, shl_eq, shrU_eq]
  split
  next h =>
    subst h
    simp
  next => rfl

/-- Bit `k` goes to bit `(k + c) mod 32`. -/
theorem getLsbD_rotateLeft_add (v : Word) (c : Nat) {k : Nat} (hk : k < 32) :
    (v.rotateLeft (c % 32)).getLsbD ((k + c) % 32) = v.getLsbD k := by
  rw [BitVec.getLsbD_rotateLeft, Nat.mod_mod]
  by_cases hwrap : (k + c) % 32 < c % 32
  · have hk' : 32 - c % 32 + (k + c) % 32 = k := by omega
    simp [hwrap, hk']
  · have hk' : (k + c) % 32 - c % 32 = k := by omega
    have hlt : (k + c) % 32 < 32 := Nat.mod_lt _ (by decide)
    simp [hwrap, hk', hlt]

/-- Bit `k` comes from bit `(k + c) mod 32`. -/
theorem getLsbD_rotateRight_add (v : Word) (c : Nat) {k : Nat} (hk : k < 32) :
    (v.rotateRight (c % 32)).getLsbD k = v.getLsbD ((k + c) % 32) := by
  rw [BitVec.getLsbD_rotateRight, Nat.mod_mod]
  by_cases hwrap : k < 32 - c % 32
  · have hk' : c % 32 + k = (k + c) % 32 := by omega
    simp [hwrap, hk']
  · have hk' : k - (32 - c % 32) = (k + c) % 32 := by omega
    simp [hwrap, hk', hk]

/-- Settles O47: the destination is the library's rotation, whose bits are known. -/
theorem rotateLeftMovesEveryBit : Obligations.RotateLeftMovesEveryBit := by
  intro a c dst s
  obtain ⟨t, ht, hwrote⟩ := binaryResult_wrote (fun v n => rotateLeftBy v (shiftCount n)) a c dst s
  rw [rotateLeftBy_eq _ (shiftCount_lt _)] at hwrote
  obtain ⟨hdst, -⟩ := id hwrote
  exact ⟨t, ht, hwrote, fun k hk => hdst ▸ getLsbD_rotateLeft_add _ _ hk⟩

/-- Settles O48: the destination is the library's rotation to the right, whose bits are known. -/
theorem rotateRightMovesEveryBit : Obligations.RotateRightMovesEveryBit := by
  intro a c dst s
  obtain ⟨t, ht, hwrote⟩ := binaryResult_wrote (fun v n => rotateRightBy v (shiftCount n)) a c dst s
  rw [rotateRightBy_eq _ (shiftCount_lt _)] at hwrote
  obtain ⟨hdst, -⟩ := id hwrote
  exact ⟨t, ht, hwrote, fun k hk => hdst ▸ getLsbD_rotateRight_add _ _ hk⟩

end Sys2Proof.Machine

/-! PROOFS. The causes of faults (`60_exceptions.md`, R181) and that no instruction reads OUT (`10_state.md`, R31): O19 and
O20. -/

namespace Sys2Proof.Machine

open Sys2Proof

/-! ### The fault's records a result appends (R181) -/

/-- Every fault's record that `r` appends to the OUT of `s` satisfies `P`, by its kind and info. -/
def RaisesOnly (P : FaultKind → Nat → Prop) (s : State) (r : Result) : Prop :=
  ∀ t k n, r = .next t → .error k n ∈ t.out.drop s.out.length → P k n

theorem raisesOnly_of_out_eq {P : FaultKind → Nat → Prop} {s u : State} (h : u.out = s.out) :
    RaisesOnly P s (.next u) := by
  rintro t k n ⟨⟩ herr
  simp [h] at herr

theorem writeResult_raisesOnly {P : FaultKind → Nat → Prop} (d : RegIdx) (v : Word) (s : State) :
    RaisesOnly P s (writeResult d v s) := raisesOnly_of_out_eq rfl

theorem appendResult_raisesOnly {P : FaultKind → Nat → Prop} {recs : List OutRec}
    (h : ∀ k n, .error k n ∈ recs → P k n) (s : State) : RaisesOnly P s (appendResult recs s) := by
  rintro t k n ⟨⟩ herr
  exact h k n (by simpa using herr)

theorem raiseFault_raisesOnly {P : FaultKind → Nat → Prop} {k : FaultKind} {info : Nat} (h : P k info) (s : State) :
    RaisesOnly P s (raiseFault k info s) := by
  refine appendResult_raisesOnly (fun k' n' herr => ?_) s
  cases List.mem_singleton.mp herr
  exact h

/-! ### Instructions that raise (R121 to R123, R154, R155, R162) -/

/-- Why InvalidBase is raised with info `n` for a base `n` (R120). -/
def BaseCause (base : Nat) (k : FaultKind) (n : Nat) : Prop := k = .invalidBase ∧ n = base ∧ ¬ baseLegal base

/-- Why Division and Modulo of registers `a` and `b` raise (R154, R155). -/
def DivideCause (a b : RegIdx) (s : State) (k : FaultKind) (n : Nat) : Prop :=
  n = b.toNat ∧ ((k = .divisionByZero ∧ divisorZero (s.reg b)) ∨
    (k = .divisionOverflow ∧ s.config.divOvf = .fault ∧ quotientOverflows (s.reg a) (s.reg b)))

/-- Why InputOperand raises on an answer (R123). -/
def AnswerCause (p : Prompt) (s : State) (k : FaultKind) (n : Nat) : Prop :=
  ∃ rest, n = p.a.toNat ∧ ((k = .inputCancelled ∧ s.answers = .absent :: rest) ∨
    ∃ cs, k = .invalidInput ∧ s.answers = .text cs :: rest ∧ parseInt s.config cs p.base = none)

theorem printRegisters_raisesOnly (base : Nat) (s : State) :
    RaisesOnly (BaseCause base) s (exec (.printRegisters base) s) := by
  by_cases h : baseLegal base
  · rw [exec_printRegisters_legal h]
    exact appendResult_raisesOnly (fun k n herr => absurd herr (by simp [error_not_mem_regLines])) s
  · rw [exec_printRegisters_illegal h]
    exact raiseFault_raisesOnly ⟨rfl, rfl, h⟩ s

theorem printOperand_raisesOnly (a : RegIdx) (base : Nat) (s : State) :
    RaisesOnly (BaseCause base) s (exec (.printOperand a base) s) := by
  by_cases h : baseLegal base
  · rw [exec_printOperand_legal h]
    exact appendResult_raisesOnly (fun k n herr => absurd herr (by simp)) s
  · rw [exec_printOperand_illegal h]
    exact raiseFault_raisesOnly ⟨rfl, rfl, h⟩ s

theorem divideResult_raisesOnly (f : Word → Word → Word) (a b dst : RegIdx) (s : State) :
    RaisesOnly (DivideCause a b s) s (divideResult f a b dst s) := by
  rcases divideResult_cases f a b dst s with ⟨hzero, h⟩ | ⟨_, ⟨hover, hfault⟩, h⟩ | ⟨_, _, h⟩ <;> rw [h]
  · exact raiseFault_raisesOnly ⟨rfl, .inl ⟨rfl, hzero⟩⟩ s
  · exact raiseFault_raisesOnly ⟨rfl, .inr ⟨rfl, hfault, hover⟩⟩ s
  · exact writeResult_raisesOnly dst _ s

theorem setByte_raisesOnly (reg idxReg valReg : RegIdx) (s : State) :
    RaisesOnly (fun k n => k = .byteRange ∧ n = reg.toNat ∧ byteOutOfRange (s.reg idxReg) (s.reg valReg)) s
      (exec (.setByte reg idxReg valReg) s) := by
  by_cases h : byteOutOfRange (s.reg idxReg) (s.reg valReg)
  · rw [exec_setByte_outOfRange h]
    exact raiseFault_raisesOnly ⟨rfl, rfl, h⟩ s
  · rw [exec_setByte_inRange h]
    exact writeResult_raisesOnly reg _ s

theorem completeInput_raisesOnly (p : Prompt) (s : State) : RaisesOnly (AnswerCause p s) s (completeInput p s) := by
  cases ha : s.answers with
  | nil =>
    rw [completeInput_unanswered ha]
    exact raisesOnly_of_out_eq rfl
  | cons r rest =>
    rw [completeInput_answered ha]
    rcases useAnswer_cases p r (s.answered rest) with ⟨rfl, h⟩ | ⟨cs, rfl, hparse, h⟩ | ⟨_, v, _, _, h⟩ <;> rw [h]
    · exact raiseFault_raisesOnly ⟨rest, rfl, .inl ⟨rfl, ha⟩⟩ (s.answered rest)
    · exact raiseFault_raisesOnly ⟨rest, rfl, .inr ⟨cs, rfl, ha, hparse⟩⟩ (s.answered rest)
    · exact writeResult_raisesOnly p.a v (s.answered rest)

/-- An InputOperand raises for its base where it is checked, or for the answer to its own prompt. -/
theorem inputOperand_raisesOnly {a : RegIdx} {base : Nat} {s : State}
    (hown : ∀ p, s.status = .waitInput p → Instr.inputOperand a base = .inputOperand p.a p.base) :
    RaisesOnly (fun k n => (BaseCause base k n ∧ s.config.inputBaseCheck = true) ∨ AnswerCause ⟨a, base⟩ s k n) s
      (exec (.inputOperand a base) s) := by
  by_cases hw : ∃ p, s.status = .waitInput p
  · obtain ⟨p, hp⟩ := hw
    cases hown p hp
    rw [exec_inputOperand_waiting hp]
    exact fun t k n ht herr => .inr (completeInput_raisesOnly p s t k n ht herr)
  · rw [exec_inputOperand_asking (not_exists.mp hw)]
    split
    next h => exact raiseFault_raisesOnly (.inl ⟨⟨rfl, rfl, h.2⟩, h.1⟩) s
    next => exact raisesOnly_of_out_eq rfl

/-- Settles O19: each instruction that raises raises for its own cause, and every other one appends no fault's record. -/
theorem faultsComeFromTheirCauses : Obligations.FaultsComeFromTheirCauses := by
  intro i s t k n hown hexec herr
  cases i with
  | printRegisters base =>
    obtain ⟨rfl, rfl, hbase⟩ := printRegisters_raisesOnly base s t k n hexec herr
    exact .inl ⟨rfl, hbase, .inl rfl⟩
  | printOperand a base =>
    obtain ⟨rfl, rfl, hbase⟩ := printOperand_raisesOnly a base s t k n hexec herr
    exact .inl ⟨rfl, hbase, .inr (.inl ⟨a, rfl⟩)⟩
  | inputOperand a base =>
    rcases inputOperand_raisesOnly hown t k n hexec herr with ⟨⟨rfl, rfl, hbase⟩, hcheck⟩ | ⟨rest, hn, hcause⟩
    · exact .inl ⟨rfl, hbase, .inr (.inr ⟨a, rfl, hcheck⟩)⟩
    · exact .inr (.inr (.inr ⟨a, base, rest, rfl, hn, hcause⟩))
  | division a b dst =>
    exact .inr (.inl ⟨a, b, dst, .inl rfl, divideResult_raisesOnly quotient a b dst s t k n hexec herr⟩)
  | modulo a b dst =>
    exact .inr (.inl ⟨a, b, dst, .inr rfl, divideResult_raisesOnly remainder a b dst s t k n hexec herr⟩)
  | setByte reg idxReg valReg =>
    obtain ⟨rfl, rfl, hrange⟩ := setByte_raisesOnly reg idxReg valReg s t k n hexec herr
    exact .inr (.inr (.inl ⟨reg, idxReg, valReg, rfl, rfl, rfl, fun h => (not_byteOutOfRange_iff _ _).mpr h hrange⟩))
  | swap a b => exact (raisesOnly_of_out_eq (P := fun _ _ => False) rfl t k n hexec herr).elim
  | _ => exact (writeResult_raisesOnly (P := fun _ _ => False) _ _ s t k n hexec herr).elim

/-! ### Records put before OUT (R31) -/

/-- With records put before the OUT of `s`, `f` answers the same next state with these records before its OUT. -/
def IgnoresOut (s : State) (recs : List OutRec) (f : State → Result) : Prop :=
  ∃ t, f s = .next t ∧ f (s.outAfter recs) = .next (t.outAfter recs)

/-- What `f` does at `s` and at the same state with records before its OUT is what `g` does there. -/
theorem IgnoresOut.congr {s : State} {recs : List OutRec} {f g : State → Result} (hg : IgnoresOut s recs g)
    (h : f s = g s) (h' : f (s.outAfter recs) = g (s.outAfter recs)) : IgnoresOut s recs f := by
  obtain ⟨t, ht, ht'⟩ := hg
  exact ⟨t, h.trans ht, h'.trans ht'⟩

theorem writeResult_ignoresOut (d : RegIdx) (v : Word) (s : State) (recs : List OutRec) :
    IgnoresOut s recs (writeResult d v) := ⟨_, rfl, rfl⟩

theorem State.emit_outAfter (new recs : List OutRec) (s : State) :
    (s.outAfter recs).emit new = (s.emit new).outAfter recs := by
  simp only [State.emit, State.outAfter, List.append_assoc]

theorem appendResult_ignoresOut (new : List OutRec) (s : State) (recs : List OutRec) :
    IgnoresOut s recs (appendResult new) :=
  ⟨_, rfl, congrArg (fun u : State => Host.Outcome.next u.advance) (s.emit_outAfter new recs)⟩

theorem raiseFault_ignoresOut (k : FaultKind) (info : Nat) (s : State) (recs : List OutRec) :
    IgnoresOut s recs (raiseFault k info) := appendResult_ignoresOut _ s recs

theorem divideResult_ignoresOut (f : Word → Word → Word) (a b dst : RegIdx) (s : State) (recs : List OutRec) :
    IgnoresOut s recs (divideResult f a b dst) := by
  by_cases hzero : divisorZero (s.reg b)
  · exact (raiseFault_ignoresOut _ _ s recs).congr (if_pos hzero) (if_pos hzero)
  · by_cases hfault : quotientOverflows (s.reg a) (s.reg b) ∧ s.config.divOvf = .fault
    · exact (raiseFault_ignoresOut _ _ s recs).congr ((if_neg hzero).trans (if_pos hfault))
        ((if_neg hzero).trans (if_pos hfault))
    · exact (writeResult_ignoresOut dst _ s recs).congr ((if_neg hzero).trans (if_neg hfault))
        ((if_neg hzero).trans (if_neg hfault))

theorem useAnswer_ignoresOut (p : Prompt) (r : Answer) (s : State) (recs : List OutRec) :
    IgnoresOut s recs (useAnswer p r) := by
  cases r with
  | absent => exact raiseFault_ignoresOut _ _ s recs
  | text cs =>
    cases h : parseInt s.config cs p.base with
    | none =>
      exact (raiseFault_ignoresOut _ _ s recs).congr (useAnswer_unparsable h)
        (useAnswer_unparsable (s := s.outAfter recs) h)
    | some v =>
      exact (writeResult_ignoresOut _ _ s recs).congr (useAnswer_parsed h)
        (useAnswer_parsed (s := s.outAfter recs) h)

theorem completeInput_ignoresOut (p : Prompt) (s : State) (recs : List OutRec) :
    IgnoresOut s recs (completeInput p) := by
  cases ha : s.answers with
  | nil => exact ⟨s, completeInput_unanswered ha p, completeInput_unanswered (s := s.outAfter recs) ha p⟩
  | cons r rest =>
    obtain ⟨t, ht, ht'⟩ := useAnswer_ignoresOut p r (s.answered rest) recs
    exact ⟨t, (completeInput_answered ha p).trans ht,
      (completeInput_answered (s := s.outAfter recs) ha p).trans ht'⟩

theorem inputOperand_ignoresOut (a : RegIdx) (base : Nat) (s : State) (recs : List OutRec) :
    IgnoresOut s recs (exec (.inputOperand a base)) := by
  by_cases hw : ∃ p, s.status = .waitInput p
  · obtain ⟨p, hp⟩ := hw
    exact (completeInput_ignoresOut p s recs).congr (exec_inputOperand_waiting hp a base)
      (exec_inputOperand_waiting (s := s.outAfter recs) hp a base)
  · have hask := exec_inputOperand_asking (not_exists.mp hw) a base
    have hask' := exec_inputOperand_asking (s := s.outAfter recs) (not_exists.mp hw) a base
    by_cases hc : s.config.inputBaseCheck ∧ ¬ baseLegal base
    · exact (raiseFault_ignoresOut _ _ s recs).congr (hask.trans (if_pos hc)) (hask'.trans (if_pos hc))
    · exact ⟨_, hask.trans (if_neg hc), hask'.trans (if_neg hc)⟩

/-- Settles O20: the conditions and the values written are of other parts of the state, and a record appended after
others is appended after more. -/
theorem outputIsNeverRead : Obligations.OutputIsNeverRead := by
  intro i s recs
  change IgnoresOut s recs (exec i)
  cases i with
  | printRegisters base =>
    by_cases h : baseLegal base
    · exact (appendResult_ignoresOut _ s recs).congr (exec_printRegisters_legal h s) (exec_printRegisters_legal h _)
    · exact (raiseFault_ignoresOut _ _ s recs).congr (exec_printRegisters_illegal h s) (exec_printRegisters_illegal h _)
  | printOperand a base =>
    by_cases h : baseLegal base
    · exact (appendResult_ignoresOut _ s recs).congr (exec_printOperand_legal h a s) (exec_printOperand_legal h a _)
    · exact (raiseFault_ignoresOut _ _ s recs).congr (exec_printOperand_illegal h a s) (exec_printOperand_illegal h a _)
  | inputOperand a base => exact inputOperand_ignoresOut a base s recs
  | division a b dst => exact divideResult_ignoresOut _ a b dst s recs
  | modulo a b dst => exact divideResult_ignoresOut _ a b dst s recs
  | setByte reg idxReg valReg =>
    by_cases h : byteOutOfRange (s.reg idxReg) (s.reg valReg)
    · exact (raiseFault_ignoresOut _ _ s recs).congr (exec_setByte_outOfRange h)
        (exec_setByte_outOfRange (s := s.outAfter recs) h)
    · exact (writeResult_ignoresOut reg _ s recs).congr (exec_setByte_inRange h)
        (exec_setByte_inRange (s := s.outAfter recs) h)
  | _ => exact ⟨_, rfl, rfl⟩

end Sys2Proof.Machine

/-! PROOFS. Reset, the step's dispatch and the host's ports `load` and `collect` (`10_state.md`, `40_dispatch.md`,
`70_reset_and_hazards.md`): O1, O2, O12, O53, O54 and O55. -/

namespace Sys2Proof.Machine

open Sys2Proof

/-! ### Reset (R41, R210) -/

theorem State.hardReset_reg (s : State) (r : RegIdx) : s.hardReset.reg r = 0 := RegFile.get_zero r

/-- Settles O1: hardware reset replaces the register file by zeros and sets the other fields. -/
theorem resetLeavesCoreCleared : Obligations.ResetLeavesCoreCleared :=
  ⟨fun s => ⟨s.hardReset_reg, rfl, rfl, rfl, rfl, rfl⟩, rfl, rfl⟩

/-- Settles O2: after reset no run is in progress, OPMAP is the default one, and PROG_MAX gives no bound. -/
theorem resetMeetsInvariant : Obligations.ResetMeetsInvariant := by
  refine inv_of_not_inRun (by simp [State.InRun, State.reset]) (by decide : Config.default.wf = true) ?_
  intro m hm
  cases hm

/-! ### Dispatch (R110, R111) -/

/-- Settles O12: with the word fetched and decoded, the step is the instruction's handler. -/
theorem stepRunsDecodedInstruction : Obligations.StepRunsDecodedInstruction := by
  intro s w i hrun hw hi
  rw [step_running hrun]
  simp only [runWord, hw, hi]

/-! ### `load` (R28, R53, R213) -/

/-- A stream of a program's words loads as the program does (D2). -/
theorem hostCommand_loadStream_streamOfProgram (s : State) (p : List Word) :
    hostCommand (.loadStream (streamOfProgram s.config.streamEndian p)) s = portLoad p s := by
  simp only [hostCommand, portLoadStream, programOfStream_streamOfProgram]

theorem portLoad_tooLong {s : State} {p : List Word} {m : Nat} (hm : s.config.progMax = some m) (hlt : m < p.length) :
    portLoad p s = .refused .programTooLong := by
  simp only [portLoad, hm]
  exact if_neg hlt.not_ge

theorem portLoad_accepted {s : State} {p : List Word} (h : ∀ m, s.config.progMax = some m → p.length ≤ m) :
    portLoad p s = .next (s.setProg p) := by
  unfold portLoad
  split
  next => rfl
  next m hm => exact if_pos (h m hm)

/-- Settles O53: the stream loads as its words do, and these as PROG_MAX allows. -/
theorem loadReplacesProgram : Obligations.LoadReplacesProgram := by
  intro s p
  rw [hostCommand_loadStream_streamOfProgram]
  split
  next h =>
    obtain ⟨m, hm, hlt⟩ := h
    exact ⟨portLoad_tooLong hm hlt, portLoad_tooLong hm hlt⟩
  next h =>
    have hle (m) (hm : s.config.progMax = some m) : p.length ≤ m := by
      by_contra hlt
      exact h ⟨m, hm, not_le.mp hlt⟩
    exact ⟨portLoad_accepted hle, portLoad_accepted hle⟩

/-! ### `collect` and the refusals by status (R214, R222) -/

theorem portCollect_done {s : State} (h : s.status = .done) :
    portCollect s = .next ((s.reply (.output s.out)).setStatus .idle) := by simp only [portCollect, h]

theorem portCollect_idle {s : State} (h : s.status = .idle) : portCollect s = .refused .collectNotDone := by
  simp only [portCollect, h]

theorem portStart_done {s : State} (h : s.status = .done) : portStart s = .refused .startNotIdle := by
  simp only [portStart, h]

theorem portStart_idle_unloaded {s : State} (h : s.status = .idle) (hp : s.prog = none) :
    portStart s = .refused .startWithoutProgram := by simp only [portStart, h, hp]

/-- Settles O54: by the status, the command is carried out or refused. -/
theorem collectDeliversOutput : Obligations.CollectDeliversOutput := by
  intro s
  refine ⟨fun hdone => ⟨_, portCollect_done hdone, rfl, rfl, ?_, portStart_done hdone⟩,
    fun hidle => ⟨portCollect_idle hidle, portStart_idle_unloaded hidle⟩⟩
  rw [← hdone]
  rfl

/-! ### The host's turn (R222) -/

theorem not_inRun_of_idle_or_done {s : State} (h : s.status = .idle ∨ s.status = .done) : ¬ s.InRun := by
  rcases h with h | h <;> simp [State.InRun, h]

/-- In RUNNING a step that answers a next state has fetched a word (R110). -/
theorem pc_lt_of_step_running {s t : State} (hrun : s.status = .running) (h : step s = .next t) :
    s.pc < s.progLen := by
  cases hf : s.fetch with
  | some w => exact s.pc_lt_of_fetch hf
  | none =>
    rw [step_running hrun, runWord, hf] at h
    cases h

/-- A run's step ends in one of the shapes of `Ending`, none of which changes the host's side (R36). -/
theorem run_step_sameHostSide {s t : State} (hrun : s.InRun) (h : step s = .next t) : SameHostSide s t := by
  obtain ⟨t', ht', hend⟩ := run_step_ending hrun fun hr => pc_lt_of_step_running hr h
  cases h.symm.trans ht'
  obtain ⟨-, hside⟩ := hend.wrote_or_appended
  exact hside

/-- Settles O55: between runs the step is the host's turn, and in a run it leaves the host's side alone. -/
theorem hostActsOnlyBetweenRuns : Obligations.HostActsOnlyBetweenRuns := by
  intro s
  refine ⟨fun hs hnone => ?_, fun c rest hs hcmd => ?_, fun t hrun h => ?_⟩
  · exact (step_not_inRun (not_inRun_of_idle_or_done hs)).trans (hostTurn_idle hnone)
  · exact (step_not_inRun (not_inRun_of_idle_or_done hs)).trans (hostTurn_command hcmd)
  · obtain ⟨-, -, hhost, hreplies⟩ := run_step_sameHostSide hrun h
    exact ⟨hhost, hreplies⟩

end Sys2Proof.Machine
